-- ==== Sys2Proof/Word.lean ====
section
/-! DEFINITION. The word type of the TPD block: the byte (spec/00_scope.md R16). -/

namespace Sys2Proof

/-- A byte; bit 0 is its least significant bit (R16). -/
abbrev Byte := BitVec 8

end Sys2Proof
end

