-- ==== Sys2Proof/Config.lean ====
section
/-! DEFINITION. What an implementation fixes (spec/00_scope.md R7 to R15, spec/10_state.md R21), and the free
values: opaque constants that nothing constrains. -/

namespace Sys2Proof

/-- Which bit of a buffer byte holds the earliest sample: OPEN, and read by no rule (R14, R65). -/
inductive SampleOrder where
  | msbFirst
  | lsbFirst
  deriving DecidableEq, Repr, Inhabited

/-- The parameters of one block (R21), fixed for its life. `N` is held as `N - 1` in 16 bits, the form in which the
capture frame and CONFIG hold it, so that exactly the admitted sizes `1 <= N <= 65536` can be written (R7, R89). -/
structure Cfg where
  /-- `L = N - 1` (R13, R88). -/
  lenM1 : BitVec 16
  /-- `TRIG_BIT` (R8): OPEN. -/
  trigBit : Fin 8
  /-- `SAMPLE_ORDER` (R14): OPEN. -/
  sampleOrder : SampleOrder
  deriving DecidableEq, Repr

/-- `N`: the capacity of the Waveform Buffer in bytes (R7). -/
def Cfg.capacity (c : Cfg) : Nat := c.lenM1.toNat + 1

/-- The parameters as a user writes them, before the configuration check of R89. -/
structure RawConfig where
  capacity : Nat
  trigBit : Nat
  sampleOrder : SampleOrder
  deriving DecidableEq, Repr

namespace Config

/-- `PULSE_NS` (R10). -/
def pulseNs : Nat := 10000

/-- `DEADLINE_NS` (R11). -/
def deadlineNs : Nat := 1000000000

/-- `OP_GPIO_SET` (R12). -/
def opGpioSet : Byte := 0x80

/-- `OP_CAPTURE` (R12). -/
def opCapture : Byte := 0x2C

/-- Free value: the trigger line of the block at hand (R8, 93 U15; log 10). -/
opaque trigBit : Fin 8

/-- Free value: the sample order of the block at hand (R14, 93 U14; log 10). -/
opaque sampleOrder : SampleOrder

/-- Free value: the clock at reset (R39, 93 U17; log 9). -/
opaque initialClk : Nat

/-- Free value: the count a command write returns at draw `k`, when none is scheduled (R17, 93 U11; log 7). -/
opaque freeCount : Nat → Int

/-- Free value: the bytes a source read returns at draw `k`, when none are scheduled (R212, 93 U12; log 8). -/
opaque freeBytes : Nat → List Byte

/-- Free value: an unscheduled clock advance at draw `k` is one more than this (R39, 93 U9, U10; log 9). -/
opaque freeAdvance : Nat → Nat

/-- Free value: how many moves of the other agents, beyond one, come between the unscheduled clock advance at draw `k` and
the next one (R147, R207; log 26). -/
opaque freeGap : Nat → Nat

/-- Free value: the content of `T0` before its first write (R37, 93 U18; log 16). -/
opaque undefinedT0 : Nat

/-- Free value: the content of `WAKE` before its first write (R38, 93 U18; log 16). -/
opaque undefinedWake : Nat

/-- The block of `State.reset`: the default size `N = 65536` of R7, the OPEN parameters free (log 10). -/
def reference : Cfg := { lenM1 := 0xFFFF, trigBit := trigBit, sampleOrder := sampleOrder }

end Config

end Sys2Proof
end

