-- ==== Sys2Proof/Syntax.lean ====
section
/-! DEFINITION. The instructions of the TPD block: the four host operations (spec/30_encoding.md R96) and the two wire
frames (R86), the frames as bytes, and the lines of a host program (R100 to R102). -/

namespace Sys2Proof

/-- The two levels of encoding (30_encoding.md, opening): a host operation is one byte, a wire frame three (R99). -/
inductive Level where
  | host
  | wire
  deriving DecidableEq, Repr

/-- The instructions, one constructor per row of spec/opcode_table.json (R3). -/
inductive Instr where
  /-- TRIGGER, op code 0x01 (R110). -/
  | trigger
  /-- CAPINIT, op code 0x02 (R130). -/
  | capinit
  /-- ACCUMULATE, op code 0x03 (R140). -/
  | accumulate
  /-- LOCATE, op code 0x04 (R165). -/
  | locate
  /-- GPIO_SET value, dir: the frame `[0x80, value, dir]` (R87). -/
  | gpioSet (value dir : Byte)
  /-- CAPTURE len_m1: the frame `[0x2C, L[7:0], L[15:8]]` with `L = len_m1` (R88, R100). -/
  | capture (lenM1 : BitVec 16)
  deriving DecidableEq, Repr

/-- The level an instruction is encoded at. -/
def Instr.level : Instr → Level
  | .trigger => .host
  | .capinit => .host
  | .accumulate => .host
  | .locate => .host
  | .gpioSet _ _ => .wire
  | .capture _ => .wire

/-- The four operations a host can issue (R96). -/
inductive HostOp where
  | trigger
  | capinit
  | accumulate
  | locate
  deriving DecidableEq, Repr

/-- A host operation as an instruction. -/
def HostOp.instr : HostOp → Instr
  | .trigger => .trigger
  | .capinit => .capinit
  | .accumulate => .accumulate
  | .locate => .locate

/-- A command frame: exactly three bytes, `b0` sent first (R85, R63). -/
structure Frame where
  b0 : Byte
  b1 : Byte
  b2 : Byte
  deriving DecidableEq, Repr

/-- The bytes of a frame in stream order (R63). -/
def Frame.bytes (f : Frame) : List Byte := [f.b0, f.b1, f.b2]

/-- One line of a host program: a mnemonic or a pseudo-operation, without operands (R100). -/
inductive HostLine where
  | op (o : HostOp)
  | cycle
  | run
  deriving DecidableEq, Repr

/-- A source line: a label, what the line holds, and a comment (R100). -/
structure SourceLine where
  label : Option String
  body : Option HostLine
  comment : Option String
  deriving DecidableEq, Repr

end Sys2Proof
end

