-- ==== Sys2Proof/WellFormed.lean ====
section
/-! DEFINITION. The checks on a configuration (spec/00_scope.md R7, R8; spec/30_encoding.md R89) and on where an
instruction may stand (R95, R98). -/

namespace Sys2Proof

/-- `1 <= N <= 65536` (R89). -/
def RawConfig.capacityOk (r : RawConfig) : Bool := decide (1 ≤ r.capacity ∧ r.capacity ≤ 65536)

/-- `TRIG_BIT` lies in 0..7 (R8). -/
def RawConfig.trigBitOk (r : RawConfig) : Bool := decide (r.trigBit < 8)

/-- The configuration check: outside it "no block exists" (R89, V-CAP-9). -/
def RawConfig.wf (r : RawConfig) : Bool := r.capacityOk && r.trigBitOk

/-- The block of a configuration, or `none`: refused at configuration time (R89). -/
def RawConfig.toCfg (r : RawConfig) : Option Cfg :=
  if r.capacityOk then
    if h : r.trigBit < 8 then
      some { lenM1 := BitVec.ofNat 16 (r.capacity - 1), trigBit := ⟨r.trigBit, h⟩, sampleOrder := r.sampleOrder }
    else none
  else none

/-- An instruction may be presented only at its own level: a wire opcode is no host operation (R97, V-DEC-4), and no
host op code is a frame (R98). -/
def Instr.wfAt (lvl : Level) (i : Instr) : Bool := decide (i.level = lvl)

end Sys2Proof
end

