-- ==== Sys2Proof/Decode.lean ====
section
/-! DEFINITION. Decoding and encoding of host operations (spec/30_encoding.md R94 to R97) and of wire frames (R85 to
R90), total on any bytes, rejecting by name. -/

namespace Sys2Proof

/-- Why a byte sequence is no instruction. -/
inductive DecodeError where
  /-- A reserved host op code: 0x00, 0x05 to 0xFF (R97). -/
  | reservedOp (b : Byte)
  /-- A wire opcode other than 0x80 and 0x2C (R98). -/
  | wireOpcode (b : Byte)
  /-- Fewer bytes than the instruction's length (R99). -/
  | truncated
  deriving DecidableEq, Repr

/-- The op code of a host operation (R96). -/
def HostOp.code : HostOp → Byte
  | .trigger => 0x01
  | .capinit => 0x02
  | .accumulate => 0x03
  | .locate => 0x04

/-- The op code map (R96), total on any byte (R95). -/
def decodeHostOp (b : Byte) : Except DecodeError Instr :=
  if b = 0x01 then .ok .trigger
  else if b = 0x02 then .ok .capinit
  else if b = 0x03 then .ok .accumulate
  else if b = 0x04 then .ok .locate
  else .error (.reservedOp b)

/-- The length field of a capture frame: `L = F1 + 256*F2` (R90). -/
def lengthField (lo hi : Byte) : BitVec 16 := hi ++ lo

/-- `L[7:0]` (R90). -/
def lengthLow (l : BitVec 16) : Byte := l.extractLsb' 0 8

/-- `L[15:8]` (R90). -/
def lengthHigh (l : BitVec 16) : Byte := l.extractLsb' 8 8

/-- The frame format table (R86). -/
def decodeFrame (f : Frame) : Except DecodeError Instr :=
  if f.b0 = Config.opGpioSet then .ok (.gpioSet f.b1 f.b2)
  else if f.b0 = Config.opCapture then .ok (.capture (lengthField f.b1 f.b2))
  else .error (.wireOpcode f.b0)

/-- Read one instruction of the given level off a byte stream; the rest of the stream comes back (R99). -/
def decodeBytes : Level → List Byte → Except DecodeError (Instr × List Byte)
  | .host, b :: rest =>
    match decodeHostOp b with
    | .ok i => .ok (i, rest)
    | .error e => .error e
  | .wire, b0 :: b1 :: b2 :: rest =>
    match decodeFrame ⟨b0, b1, b2⟩ with
    | .ok i => .ok (i, rest)
    | .error e => .error e
  | _, _ => .error .truncated

/-- The frame `[0x80, value, dir]` (R87). -/
def gpioFrame (value dir : Byte) : Frame := ⟨Config.opGpioSet, value, dir⟩

/-- The frame `[0x2C, L[7:0], L[15:8]]` (R88, R90). -/
def captureFrame (l : BitVec 16) : Frame := ⟨Config.opCapture, lengthLow l, lengthHigh l⟩

/-- The bytes of an instruction, in stream order. -/
def encode : Instr → List Byte
  | .trigger => [HostOp.code .trigger]
  | .capinit => [HostOp.code .capinit]
  | .accumulate => [HostOp.code .accumulate]
  | .locate => [HostOp.code .locate]
  | .gpioSet v d => (gpioFrame v d).bytes
  | .capture l => (captureFrame l).bytes

/-- The bytes of a table word, in stream order: the table numbers a host operation's bits 7:0, and a frame's first
stream byte bits 23:16 (opcode_table.json's notes; log 1). -/
def tableBytes (nbits w : Nat) : List Byte :=
  if nbits = 8 then [BitVec.ofNat 8 w]
  else if nbits = 24 then [BitVec.ofNat 8 (w / 65536), BitVec.ofNat 8 (w / 256), BitVec.ofNat 8 w]
  else []

/-- The level whose instructions have `nbits` bits (R99). -/
def tableLevel (nbits : Nat) : Level := if nbits = 8 then .host else .wire

/-- The instruction the decoder reads from a table word. -/
def decodeTableWord (nbits w : Nat) : Option Instr :=
  match decodeBytes (tableLevel nbits) (tableBytes nbits w) with
  | .ok (i, []) => some i
  | .ok (_, _ :: _) => none
  | .error _ => none

/-- The op code bytes one line of a host program stands for (R100, R101). `RUN` loops until it is cancelled and has no
fixed byte sequence (R102; log 27). -/
def HostLine.opBytes : HostLine → Option (List Byte)
  | .op o => some [o.code]
  | .cycle => some [0x01, 0x02, 0x03, 0x04]
  | .run => none

/-- The encoding of a host program: its op code bytes in order; labels and comments take none (R100). -/
def assemble : List SourceLine → Option (List Byte)
  | [] => some []
  | l :: ls =>
    match l.body, assemble ls with
    | none, rest => rest
    | some b, some rest => (b.opBytes).map (· ++ rest)
    | some _, none => none

/-- The host program of a source text: its non-empty lines (R100). -/
def sourceProgram (ls : List SourceLine) : List HostLine := ls.filterMap (·.body)

/-- One hexadecimal digit, upper case. -/
def hexDigit (n : Nat) : String :=
  if n < 10 then toString n
  else if n = 10 then "A" else if n = 11 then "B" else if n = 12 then "C"
  else if n = 13 then "D" else if n = 14 then "E" else "F"

/-- A byte as `0xHH` without its prefix. -/
def hexByte (b : Byte) : String := hexDigit (b.toNat / 16) ++ hexDigit (b.toNat % 16)

/-- The assembler's spelling of an instruction: `GPIO_SET 0xFF, 0x01`, `CAPTURE 0xFFFF` (R100). -/
def Instr.print : Instr → String
  | .trigger => "TRIGGER"
  | .capinit => "CAPINIT"
  | .accumulate => "ACCUMULATE"
  | .locate => "LOCATE"
  | .gpioSet v d => "GPIO_SET 0x" ++ hexByte v ++ ", 0x" ++ hexByte d
  | .capture l => "CAPTURE 0x" ++ hexByte (lengthHigh l) ++ hexByte (lengthLow l)

end Sys2Proof
end

