-- ==== Sys2Proof/Machine/State.lean ====
section
/-! DEFINITION. The state of the TPD block, its host and its environment (spec/10_state.md R49), as plain data, and the
state after reset (spec/70_reset_and_hazards.md R230). -/

namespace Sys2Proof.Machine

open Sys2Proof

/-- `SEQ`: the next micro-step to perform (R23). -/
inductive Seq where
  | idle
  | tHigh
  | tSleep
  | tLow
  | cWrite
  | aInit
  | aRead
  | aCheck
  | lScan
  deriving DecidableEq, Repr

/-- `STATUS.ERR` (R27): the values 5 to 7 are never written and have no name. -/
inductive Err where
  | ok
  | transport
  | timeout
  | noPulseStart
  | noPulseEnd
  deriving DecidableEq, Repr

/-- `FRAME_SYNC` (R44). -/
inductive FrameSync where
  | aligned
  | unknown
  deriving DecidableEq, Repr

/-- `TRIG_LEVEL` (R43), computed from the adapter's state. -/
inductive TrigLevel where
  | low
  | high
  | unknown
  deriving DecidableEq, Repr

/-- The model faults of spec/60_exceptions.md R195. The spec's fault step sets the reason in `FAULTS` and goes on with a
next state, so these are marks of `State.faults`; no meaning and no step answers `Outcome.fault` (log 13). -/
inductive Fault where
  /-- `F_SOURCE_OVERRUN`: set by A_READ when the source returns more than was asked (R150). Safe: nothing is appended. -/
  | sourceOverrun
  /-- `F_PARTIAL_DECODE`: set by L_SCAN when `FILLED != N` (R168). Safe: nothing is decoded. -/
  | partialDecode
  /-- `F_BUSY`: set when an op code is presented while `SEQ != IDLE` (R104). Safe: nothing else changes. -/
  | busy
  /-- `F_HOST_PROTOCOL`: set when the host reads `BUF` while `BUSY = 1` (R75). Safe: the host gets nothing. -/
  | hostProtocol
  /-- `F_INDEX`: set by an access to `BUF` outside `0..N-1` (R61). Safe: the host gets nothing. -/
  | index
  deriving DecidableEq, Repr

/-- `FAULTS`: a set of fault reasons (R46), one Bool each, so that equal sets are equal data. -/
structure FaultSet where
  sourceOverrun : Bool := false
  partialDecode : Bool := false
  busy : Bool := false
  hostProtocol : Bool := false
  index : Bool := false
  deriving DecidableEq, Repr

/-- Why a step has no meaning. The spec's own refusals set `REFUSED` and go on (R47), so nothing answers one. -/
inductive Refusal where
  /-- An instruction without a meaning in this model: raised by no arm of `exec`. Safe. -/
  | notModelled (mnemonic : String)
  deriving DecidableEq, Repr

/-- Byte memory: index and byte, sorted by index; an unlisted index reads 0x00, the reset content of `BUF` (R40). -/
abbrev Memory := List Host.Cell

/-- The canonical form: indices strictly rising, and no entry that reads as an unlisted one. -/
abbrev Memory.wf (m : Memory) : Prop := m.Pairwise (fun x y => x.1 < y.1) ∧ ∀ c ∈ m, c.2 ≠ 0#8

/-- Where the host's program stands (spec/30_encoding.md R101, R102; log 20). -/
inductive HostPc where
  /-- Before the next line of the program, or no program is left. -/
  | ready
  /-- A plain operation line was presented; waiting for `BUSY = 0`. -/
  | waitOp
  /-- In CYCLE, about to present `o`; `loop` says that the CYCLE is RUN's. -/
  | present (o : HostOp) (loop : Bool)
  /-- In CYCLE, `o` was presented; waiting for `BUSY = 0`, then testing `STATUS.ERR`. -/
  | await (o : HostOp) (loop : Bool)
  /-- RUN, at the cycle boundary: about to poll the cancellation. -/
  | poll
  /-- RUN, a cycle has ended: about to report. -/
  | report
  deriving DecidableEq, Repr

/-- What the host got back from a read (R214; log 19). -/
inductive HostReply where
  /-- The value of a register, `none` for an undefined window field (R48). -/
  | register (number : Byte) (value : Option (BitVec 32))
  /-- The byte `BUF[index]`. -/
  | bufByte (index : Nat) (value : Byte)
  deriving DecidableEq, Repr

/-- Who moves next, and with what (R20; log 5). -/
inductive Turn where
  /-- The environment advances `CLK` (R39). -/
  | clock (d : Nat)
  /-- The sequencer performs one micro-step; nothing happens where none is enabled (R19). -/
  | block
  /-- The host presents an op code (R95). -/
  | present (op : Byte)
  /-- The host reads a register (R36). -/
  | readReg (number : Byte)
  /-- The host reads a byte of `BUF` (R75). -/
  | readBuf (index : Nat)
  /-- The host resets the block (R230, R233). -/
  | reset
  /-- The cancellation input takes a level (R204). That it can also fall again before a poll is the model's choice
  (log 33). -/
  | cancel (level : Bool)
  /-- The host starts a program (R100). Whatever is left of another one is dropped at once, even while `BUSY = 1`: the
  model's choice (log 32). -/
  | start (program : List HostLine)
  /-- The host's program makes its next move (R101, R102). -/
  | host
  /-- Another agent writes a frame to the command port, which it may only while no host program runs (R80, R209; log 3). -/
  | frame (f : Frame)
  deriving DecidableEq, Repr

/-- The whole state: the record of R49, the parameters of R21, and the model's own fields for the inputs, the draws and
the host. -/
structure State where
  /-- The parameters (R21): written by no step. -/
  cfg : Cfg
  /-- `SEQ` (R23). -/
  seq : Seq
  /-- `CUR_OP` (R25). -/
  curOp : Byte
  /-- `STATUS.ERR` (R27). -/
  err : Err
  /-- `STATUS.START_VALID` (R29). -/
  startValid : Bool
  /-- `STATUS.END_VALID` (R30). -/
  endValid : Bool
  /-- `STATUS.LAST_OP` (R31). -/
  lastOp : Fin 5
  /-- `FILLED` (R32). -/
  filled : Nat
  /-- `START_BIT` (R33); `none` is the spec's own "undefined" (R48). -/
  startBit : Option Nat
  /-- `END_BIT` (R34); `none` is the spec's own "undefined" (R48). -/
  endBit : Option Nat
  /-- `T0` (R37); `none` is the spec's own "undefined" (R48). -/
  t0 : Option Nat
  /-- `WAKE` (R38); `none` is the spec's own "undefined" (R48). -/
  wake : Option Nat
  /-- `BUF` (R40). -/
  buf : Memory
  /-- `CLK` (R39). -/
  clk : Nat
  /-- `CMDLOG` (R42), oldest entry first. -/
  cmdlog : List (Frame × Int)
  /-- `GPIO_VAL` (R43); `none` is UNKNOWN. -/
  gpioVal : Option Byte
  /-- `GPIO_DIR` (R43); `none` is UNKNOWN. -/
  gpioDir : Option Byte
  /-- `FRAME_SYNC` (R44). -/
  frameSync : FrameSync
  /-- `STREAMING` (R45); `none` is UNKNOWN. -/
  streaming : Option Nat
  /-- `FAULTS` (R46). -/
  faults : FaultSet
  /-- `REFUSED` (R47). -/
  refused : Bool
  /-- The model's: the turns that are scheduled, the next one first (log 5). -/
  agenda : List Turn
  /-- The model's: the scheduled answers of `CmdWrite`, the next one first (log 7). -/
  counts : List Int
  /-- The model's: the scheduled answers of `SrcRead`, the next one first (log 8). -/
  reads : List (List Byte)
  /-- The model's: how many free draws were taken (logs 7 to 9 and 26). -/
  draws : Nat
  /-- The model's: how many unscheduled moves of the sequencer and the host's program may still come before the clock
  advances by itself (R207; log 26). -/
  untilTick : Nat
  /-- The model's: the reply of the host's last read (log 19). -/
  hostSaw : Option HostReply
  /-- The model's: where the host's program stands (log 20). -/
  hostPc : HostPc
  /-- The model's: the lines of the host's program that are left (log 20). -/
  program : List HostLine
  /-- The model's: the host-level input `cancel_requested()` (R204). -/
  cancel : Bool
  deriving DecidableEq, Repr

/-- The state after reset of a block with parameters `cfg`, when the clock stands at `clk` (R230). -/
def State.initial (cfg : Cfg) (clk : Nat) : State where
  cfg := cfg
  seq := .idle
  curOp := 0#8
  err := .ok
  startValid := false
  endValid := false
  lastOp := 0
  filled := 0
  startBit := none
  endBit := none
  t0 := none
  wake := none
  buf := []
  clk := clk
  cmdlog := []
  gpioVal := none
  gpioDir := none
  frameSync := .aligned
  streaming := none
  faults := {}
  refused := false
  agenda := []
  counts := []
  reads := []
  draws := 0
  untilTick := 0
  hostSaw := none
  hostPc := .ready
  program := []
  cancel := false

/-- The state after reset (R230): the default size, the OPEN parameters and the clock free (logs 9, 10 and 23). -/
def State.reset : State := State.initial Config.reference Config.initialClk

end Sys2Proof.Machine
end

