-- ==== Sys2Proof/Machine/Operands.lean ====
section
/-! DEFINITION. The operands of the block's operations: all are configuration or state (spec/30_encoding.md R94). The
three frames the block emits (R91) and the codes that name an operation. -/

namespace Sys2Proof.Machine

open Sys2Proof

/-- `VALUE_HIGH` (R92). -/
def valueHigh : Byte := 0xFF

/-- `DIR = 1 << TRIG_BIT` (R93; log 11 for the polarity). -/
def dirByte (c : Cfg) : Byte := 1#8 <<< c.trigBit.val

/-- `VALUE_LOW = 0xFF & ~(1 << TRIG_BIT)` (R92). -/
def valueLow (c : Cfg) : Byte := valueHigh &&& ~~~(1#8 <<< c.trigBit.val)

/-- `FRAME_HIGH = [0x80, VALUE_HIGH, DIR]` (R91). -/
def frameHigh (c : Cfg) : Frame := gpioFrame valueHigh (dirByte c)

/-- `FRAME_LOW = [0x80, VALUE_LOW, DIR]` (R91). -/
def frameLow (c : Cfg) : Frame := gpioFrame (valueLow c) (dirByte c)

/-- `FRAME_CAP = [0x2C, (N-1) & 0xFF, (N-1) >> 8]` (R91). -/
def frameCap (c : Cfg) : Frame := captureFrame c.lenM1

/-- The first micro-state of an operation (R96). -/
def HostOp.first : HostOp → Seq
  | .trigger => .tHigh
  | .capinit => .cWrite
  | .accumulate => .aInit
  | .locate => .lScan

/-- The op code as `STATUS.LAST_OP` holds it (R31). -/
def HostOp.number : HostOp → Fin 5
  | .trigger => 1
  | .capinit => 2
  | .accumulate => 3
  | .locate => 4

/-- The operation that follows in CYCLE (R101). -/
def HostOp.next : HostOp → Option HostOp
  | .trigger => some .capinit
  | .capinit => some .accumulate
  | .accumulate => some .locate
  | .locate => none

/-- The operation a micro-state belongs to (the table of R23). -/
def Seq.op : Seq → Option HostOp
  | .idle => none
  | .tHigh => some .trigger
  | .tSleep => some .trigger
  | .tLow => some .trigger
  | .cWrite => some .capinit
  | .aInit => some .accumulate
  | .aRead => some .accumulate
  | .aCheck => some .accumulate
  | .lScan => some .locate

/-- The 4-bit code of a sequencer state in a hardware realisation (R23). -/
def Seq.code : Seq → BitVec 4
  | .idle => 0x0
  | .tHigh => 0x1
  | .tSleep => 0x2
  | .tLow => 0x3
  | .cWrite => 0x4
  | .aInit => 0x5
  | .aRead => 0x6
  | .aCheck => 0x7
  | .lScan => 0x8

end Sys2Proof.Machine
end

