-- ==== Sys2Proof/Machine/Ops.lean ====
section
/-! DEFINITION. The named operations of the pseudocode (spec/00_scope.md R18): buffer access, the environment's answers,
the command write with its effect on the adapter, issue, completion, error entry, fault and refusal marks. -/

namespace Sys2Proof.Machine

open Sys2Proof

/-! ### The Waveform Buffer -/

/-- `MemRead(i, 1)` (R61): an unlisted index reads 0x00 (R40). -/
def Memory.read : Memory → Nat → Byte
  | [], _ => 0#8
  | (b, w) :: m, i => if i = b then w else Memory.read m i

/-- `MemWrite(i, 1, v)` (R61), keeping the canonical form. -/
def Memory.write : Memory → Nat → Byte → Memory
  | [], i, v => if v = 0#8 then [] else [(i, v)]
  | (b, w) :: m, i, v =>
    if i < b then (if v = 0#8 then (b, w) :: m else (i, v) :: (b, w) :: m)
    else if i = b then (if v = 0#8 then m else (i, v) :: m)
    else (b, w) :: Memory.write m i v

/-- Bytes written from index `i` up, in their order (R62). -/
def Memory.writeBytes : Memory → Nat → List Byte → Memory
  | m, _, [] => m
  | m, i, v :: vs => Memory.writeBytes (Memory.write m i v) (i + 1) vs

/-- The zero-filled buffer (R40, R143). -/
def Memory.zeroed : Memory := []

/-! ### Bit indices and scans -/

/-- The loop of R170, at most `k` shifts. -/
def hsbLoop : Nat → Byte → Nat → Nat
  | 0, _, o => o
  | k + 1, b, o => if b >>> 1 = 0#8 then o else hsbLoop k (b >>> 1) (o + 1)

/-- `hsb(b)`: the index of the highest set bit of a non-zero byte (R170). -/
def hsb (b : Byte) : Nat := hsbLoop 8 b 0

/-- The bit index `8*i + hsb(BUF[i])` (R171). -/
def bitIndex (m : Memory) (i : Nat) : Nat := 8 * i + hsb (Memory.read m i)

/-- The start scan: the first index of `i, i+1, ..., i+k-1`, ascending, that holds a non-zero byte (R169). -/
def scanUp (m : Memory) : Nat → Nat → Option Nat
  | 0, _ => none
  | k + 1, i => if Memory.read m i = 0#8 then scanUp m k (i + 1) else some i

/-- The end scan: the first index of `k-1, k-2, ..., lo+1`, descending, that holds a non-zero byte (R173). -/
def scanDown (m : Memory) (lo : Nat) : Nat → Option Nat
  | 0 => none
  | k + 1 => if k ≤ lo then none else if Memory.read m k = 0#8 then scanDown m lo k else some k

/-! ### The environment's answers -/

/-- The count the next command write returns: any integer (R17, R114; log 7). -/
def State.nextCount (s : State) : Int :=
  match s.counts with
  | n :: _ => n
  | [] => Config.freeCount s.draws

/-- That answer is used up. -/
def State.dropCount (s : State) : State :=
  match s.counts with
  | _ :: ns => { s with counts := ns }
  | [] => { s with draws := s.draws + 1 }

/-- The bytes the next source read returns: any bytes (R212; log 8). -/
def State.nextRead (s : State) : List Byte :=
  match s.reads with
  | bs :: _ => bs
  | [] => Config.freeBytes s.draws

/-- That answer is used up: its bytes are consumed (R69). -/
def State.dropRead (s : State) : State :=
  match s.reads with
  | _ :: rs => { s with reads := rs }
  | [] => { s with draws := s.draws + 1 }

/-- The environment advances `CLK` by `d >= 0` (R39). -/
def State.tick (d : Nat) (s : State) : State := { s with clk := s.clk + d }

/-- The environment advances `CLK` by a free positive amount, and grants the other agents a free positive number of moves
before it does so again (R39, R206, R207; logs 9 and 26). -/
def State.tickFree (s : State) : State :=
  { s with
    clk := s.clk + (Config.freeAdvance s.draws + 1), untilTick := Config.freeGap s.draws + 1, draws := s.draws + 1 }

/-- One of the moves granted before the clock's next free advance is used up (R207; log 26). -/
def State.spend (s : State) : State := { s with untilTick := s.untilTick - 1 }

/-- `T0`, as A_CHECK reads it; free before its first write, which no run reaches (R37; log 16). -/
def State.t0Time (s : State) : Nat := s.t0.getD Config.undefinedT0

/-- `WAKE`, as T_SLEEP reads it; free before its first write, which no run reaches (R38; log 16). -/
def State.wakeTime (s : State) : Nat := s.wake.getD Config.undefinedWake

/-! ### The adapter and the command port -/

/-- The adapter got an unknown prefix: the parser, the lines and the capture become UNKNOWN (R211). -/
def State.lostSync (s : State) : State :=
  { s with frameSync := .unknown, gpioVal := none, gpioDir := none, streaming := none }

/-- A whole frame reached an adapter whose parser is not known to be aligned: unknown effect (R209). -/
def State.lostEffect (s : State) : State :=
  { s with gpioVal := none, gpioDir := none, streaming := none }

/-- What a frame whose write returned `n` does to the adapter (R209, R210, R211). A frame of another opcode is never
emitted by the block (R98); where another agent sends one, nothing is known of the adapter after it (log 4). -/
def State.adapter (f : Frame) (n : Int) (s : State) : State :=
  if n = 3 then
    match s.frameSync with
    | .unknown => s.lostEffect
    | .aligned =>
      match decodeFrame f with
      | .ok (.gpioSet v d) => { s with gpioVal := some v, gpioDir := some d }
      | .ok (.capture l) => { s with streaming := some (l.toNat + 1) }
      | _ => s.lostSync
  else s.lostSync

/-- `n <- CmdWrite(frame)` (R18): the count is `s.nextCount`; CMDLOG records the call (R42), the adapter acts. -/
def State.cmdWrite (f : Frame) (s : State) : State :=
  State.adapter f s.nextCount { s.dropCount with cmdlog := s.cmdlog ++ [(f, s.nextCount)] }

/-! ### The life of an operation -/

/-- `BUSY` (R28). -/
def State.busy (s : State) : Bool := decide (s.seq ≠ .idle)

/-- Issue (R103). -/
def State.issue (o : HostOp) (s : State) : State :=
  { s with
    curOp := o.code, lastOp := HostOp.number o, err := .ok, startValid := false, endValid := false,
    seq := HostOp.first o }

/-- `complete` (R105). -/
def State.complete (s : State) : State := { s with curOp := 0#8, seq := .idle }

/-- `raise E`: the block's exception entry (R198). There is no vector, no saved program counter and no return operation
(R199, R201): control goes back to the host. -/
def State.raise (e : Err) (s : State) : State := { s with err := e, curOp := 0#8, seq := .idle }

/-- `FAULTS` with one more reason (R46). -/
def FaultSet.add : Fault → FaultSet → FaultSet
  | .sourceOverrun, f => { f with sourceOverrun := true }
  | .partialDecode, f => { f with partialDecode := true }
  | .busy, f => { f with busy := true }
  | .hostProtocol, f => { f with hostProtocol := true }
  | .index, f => { f with index := true }

/-- Whether a reason is in `FAULTS`. -/
def FaultSet.has : Fault → FaultSet → Bool
  | .sourceOverrun, f => f.sourceOverrun
  | .partialDecode, f => f.partialDecode
  | .busy, f => f.busy
  | .hostProtocol, f => f.hostProtocol
  | .index, f => f.index

/-- `fault F`: "changes nothing except FAULTS" (R195; log 12). -/
def State.mark (r : Fault) (s : State) : State := { s with faults := FaultSet.add r s.faults }

/-- A refusal: sets `REFUSED` and nothing else (R47, R97). -/
def State.refuse (s : State) : State := { s with refused := true }

/-- A reset of the block (R230); while an operation runs, the adapter becomes UNKNOWN (R233). `CLK`, `CMDLOG`, the
adapter of an idle block and the host are not the block's to reset (R230; log 18). -/
def State.blockReset (s : State) : State :=
  { s with
    seq := .idle, curOp := 0#8, err := .ok, startValid := false, endValid := false, lastOp := 0, filled := 0,
    startBit := none, endBit := none, t0 := none, wake := none, buf := Memory.zeroed, faults := {}, refused := false,
    frameSync := if s.busy then .unknown else s.frameSync,
    gpioVal := if s.busy then none else s.gpioVal,
    gpioDir := if s.busy then none else s.gpioDir,
    streaming := if s.busy then none else s.streaming }

end Sys2Proof.Machine
end

