-- ==== Sys2Proof/Machine/Accumulate.lean ====
section
/-! DEFINITION. ACCUMULATE (spec/42_accumulator.md). -/

namespace Sys2Proof.Machine

open Sys2Proof

/-- A_INIT (R143). -/
def aInitStep (s : State) : State :=
  { s with buf := Memory.zeroed, filled := 0, t0 := some s.clk, seq := .aRead }

/-- A_READ (R144): a read longer than `max = N - FILLED` is F_SOURCE_OVERRUN and appends nothing (R150; log 12). -/
def aReadStep (s : State) : State :=
  if s.cfg.capacity - s.filled < s.nextRead.length then s.dropRead.mark .sourceOverrun
  else
    { s.dropRead with
      buf := Memory.writeBytes s.buf s.filled s.nextRead, filled := s.filled + s.nextRead.length, seq := .aCheck }

/-- A_CHECK (R146): the full test first, then the strict deadline test. -/
def aCheckStep (s : State) : State :=
  if s.filled = s.cfg.capacity then s.complete
  else if Config.deadlineNs < s.clk - s.t0Time then s.raise .timeout
  else { s with seq := .aRead }

/-- What ACCUMULATE does next (R149): issue from IDLE (R103), one micro-step of its own, or F_BUSY under another
operation (R104; log 15). -/
def accumulateStep (s : State) : State :=
  match s.seq with
  | .idle => s.issue .accumulate
  | .aInit => aInitStep s
  | .aRead => aReadStep s
  | .aCheck => aCheckStep s
  | .tHigh | .tSleep | .tLow | .cWrite | .lScan => s.mark .busy

/-- ACCUMULATE (R149). -/
def execAccumulate (s : State) : Host.Outcome State Fault Refusal := .next (accumulateStep s)

end Sys2Proof.Machine
end

