-- ==== Sys2Proof/Machine/CaptureInit.lean ====
section
/-! DEFINITION. CAPINIT (spec/41_capture_init.md). -/

namespace Sys2Proof.Machine

open Sys2Proof

/-- C_WRITE (R133). -/
def cWriteStep (s : State) : State :=
  if s.nextCount = 3 then (s.cmdWrite (frameCap s.cfg)).complete
  else (s.cmdWrite (frameCap s.cfg)).raise .transport

/-- What CAPINIT does next: issue from IDLE (R103), its micro-step, or F_BUSY under another operation (R104; log 15). -/
def capinitStep (s : State) : State :=
  match s.seq with
  | .idle => s.issue .capinit
  | .cWrite => cWriteStep s
  | .tHigh | .tSleep | .tLow | .aInit | .aRead | .aCheck | .lScan => s.mark .busy

/-- CAPINIT (R133). -/
def execCapinit (s : State) : Host.Outcome State Fault Refusal := .next (capinitStep s)

end Sys2Proof.Machine
end

