-- ==== Sys2Proof/Machine/Locate.lean ====
section
/-! DEFINITION. LOCATE (spec/43_edge_locator.md). -/

namespace Sys2Proof.Machine

open Sys2Proof

/-- NoPulseStart: both flags 0, the fields not written (R177; log 17). -/
def noStart (s : State) : State := { s with startValid := false, endValid := false }.raise .noPulseStart

/-- NoPulseEnd: the start edge stays visible, END_BIT is not written (R176; log 17). -/
def noEnd (start : Nat) (s : State) : State :=
  { s with startBit := some start, startValid := true, endValid := false }.raise .noPulseEnd

/-- Success (R177). -/
def found (start stop : Nat) (s : State) : State :=
  { s with startBit := some start, endBit := some stop, startValid := true, endValid := true }.complete

/-- L_SCAN on a full buffer (R178). -/
def scanStep (s : State) : State :=
  match scanUp s.buf s.cfg.capacity 0 with
  | none => noStart s
  | some i =>
    if bitIndex s.buf i = 0 then noStart s
    else
      match scanDown s.buf i s.cfg.capacity with
      | none => noEnd (bitIndex s.buf i) s
      | some j => found (bitIndex s.buf i) (bitIndex s.buf j) s

/-- L_SCAN (R178): a partial buffer is F_PARTIAL_DECODE (R168; log 12). -/
def lScanStep (s : State) : State :=
  if s.filled = s.cfg.capacity then scanStep s else s.mark .partialDecode

/-- What LOCATE does next: issue from IDLE (R103), its micro-step, or F_BUSY under another operation (R104; log 15). -/
def locateStep (s : State) : State :=
  match s.seq with
  | .idle => s.issue .locate
  | .lScan => lScanStep s
  | .tHigh | .tSleep | .tLow | .cWrite | .aInit | .aRead | .aCheck => s.mark .busy

/-- LOCATE (R178). -/
def execLocate (s : State) : Host.Outcome State Fault Refusal := .next (locateStep s)

end Sys2Proof.Machine
end

