-- ==== Sys2Proof/Machine/Trigger.lean ====
section
/-! DEFINITION. TRIGGER (spec/40_trigger.md). -/

namespace Sys2Proof.Machine

open Sys2Proof

/-- T_HIGH (R113 to R115). -/
def tHighStep (s : State) : State :=
  if s.nextCount = 3 then
    { s.cmdWrite (frameHigh s.cfg) with wake := some (s.clk + Config.pulseNs), seq := .tSleep }
  else (s.cmdWrite (frameHigh s.cfg)).raise .transport

/-- T_SLEEP (R116): held, that is unchanged, while `CLK < WAKE` (log 14). -/
def tSleepStep (s : State) : State := if s.clk < s.wakeTime then s else { s with seq := .tLow }

/-- T_LOW (R117). -/
def tLowStep (s : State) : State :=
  if s.nextCount = 3 then (s.cmdWrite (frameLow s.cfg)).complete
  else (s.cmdWrite (frameLow s.cfg)).raise .transport

/-- What TRIGGER does next (R118): issue from IDLE (R103), one micro-step of its own, or F_BUSY under another operation
(R104; log 15). -/
def triggerStep (s : State) : State :=
  match s.seq with
  | .idle => s.issue .trigger
  | .tHigh => tHighStep s
  | .tSleep => tSleepStep s
  | .tLow => tLowStep s
  | .cWrite | .aInit | .aRead | .aCheck | .lScan => s.mark .busy

/-- TRIGGER (R118). -/
def execTrigger (s : State) : Host.Outcome State Fault Refusal := .next (triggerStep s)

end Sys2Proof.Machine
end

