-- ==== Sys2Proof/Machine/Wire.lean ====
section
/-! DEFINITION. The wire frames as instructions: one command write of the frame, with its effect on the adapter
(spec/30_encoding.md R87, R88; spec/60_exceptions.md R209 to R211; log 2). -/

namespace Sys2Proof.Machine

open Sys2Proof

/-- GPIO_SET value, dir (R87, R209). -/
def execGpioSet (value dir : Byte) (s : State) : Host.Outcome State Fault Refusal :=
  .next (s.cmdWrite (gpioFrame value dir))

/-- CAPTURE len_m1 (R88, R210). -/
def execCapture (lenM1 : BitVec 16) (s : State) : Host.Outcome State Fault Refusal :=
  .next (s.cmdWrite (captureFrame lenM1))

end Sys2Proof.Machine
end

