-- ==== Sys2Proof/Machine/Dispatch.lean ====
section
/-! DEFINITION. One arm per instruction. -/

namespace Sys2Proof.Machine
open Sys2Proof

def exec (i : Instr) (s : State) : Host.Outcome State Fault Refusal :=
  match i with
  | .trigger => Sys2Proof.Machine.execTrigger s
  | .capinit => Sys2Proof.Machine.execCapinit s
  | .accumulate => Sys2Proof.Machine.execAccumulate s
  | .locate => Sys2Proof.Machine.execLocate s
  | .gpioSet value dir => Sys2Proof.Machine.execGpioSet value dir s
  | .capture lenM1 => Sys2Proof.Machine.execCapture lenM1 s

end Sys2Proof.Machine
end

