-- ==== Sys2Proof/Machine/Flags.lean ====
section
/-! DEFINITION. The host-visible registers and their fields (spec/10_state.md R26 to R36), and the trigger line's level
(R43). -/

namespace Sys2Proof.Machine

open Sys2Proof

/-- The number of an error in `STATUS.ERR` (R27, R190). -/
def Err.code : Err → BitVec 3
  | .ok => 0
  | .transport => 1
  | .timeout => 2
  | .noPulseStart => 3
  | .noPulseEnd => 4

/-- STATUS (R26): bits [15:11] and [7:6] are reserved and read 0. -/
def State.statusWord (s : State) : BitVec 16 :=
  0#5 ++ BitVec.ofNat 3 s.lastOp.val ++ 0#2 ++ BitVec.ofBool s.endValid ++ BitVec.ofBool s.startValid
    ++ BitVec.ofBool s.busy ++ Err.code s.err

/-- FILLED: 17 bits, read as 32 (R26). -/
def State.filledWord (s : State) : BitVec 32 := (BitVec.ofNat 17 s.filled).setWidth 32

/-- START_BIT: 19 bits, read as 32; `none` while START_VALID = 0 (R26, R48). -/
def State.startBitWord (s : State) : Option (BitVec 32) :=
  if s.startValid then s.startBit.map (fun v => (BitVec.ofNat 19 v).setWidth 32) else none

/-- END_BIT: 19 bits, read as 32; `none` while END_VALID = 0 (R26, R48). -/
def State.endBitWord (s : State) : Option (BitVec 32) :=
  if s.endValid then s.endBit.map (fun v => (BitVec.ofNat 19 v).setWidth 32) else none

/-- CONFIG: `N-1` in [15:0], `TRIG_BIT` in [18:16], bits [31:19] read 0 (R26, R35). -/
def Cfg.configWord (c : Cfg) : BitVec 32 := 0#13 ++ BitVec.ofNat 3 c.trigBit.val ++ c.lenM1

/-- The register file as the host reads it (R26, R36): the outer `none` is a reserved number, the inner an undefined
window field (R48). -/
def State.register (s : State) (number : Byte) : Option (Option (BitVec 32)) :=
  if number = 0 then some (some (s.statusWord.setWidth 32))
  else if number = 1 then some (some s.filledWord)
  else if number = 2 then some s.startBitWord
  else if number = 3 then some s.endBitWord
  else if number = 4 then some (some (Cfg.configWord s.cfg))
  else none

/-- `TRIG_LEVEL` (R43). -/
def State.trigLevel (s : State) : TrigLevel :=
  match s.gpioDir, s.gpioVal with
  | some d, some v =>
    if d.getLsbD s.cfg.trigBit.val then (if v.getLsbD s.cfg.trigBit.val then .high else .low) else .unknown
  | _, _ => .unknown

end Sys2Proof.Machine
end

