-- ==== Sys2Proof/Machine/HostAgent.lean ====
section
/-! DEFINITION. The host: presenting an op code (spec/30_encoding.md R95 to R97, R103, R104), reading registers and BUF
(spec/10_state.md R36, spec/20_memory.md R75), and the host programs CYCLE and RUN (R101, R102; log 20). -/

namespace Sys2Proof.Machine

open Sys2Proof

/-- The host presents an op code: F_BUSY while an operation runs (R104), a refusal for a reserved code (R97). -/
def presentOp (op : Byte) (s : State) : Host.Outcome State Fault Refusal :=
  if s.busy then .next (s.mark .busy)
  else
    match decodeHostOp op with
    | .ok i => exec i s
    | .error _ => .next s.refuse

/-- The host reads a register (R36): no side effect on the block; a reserved number is refused. -/
def readRegister (number : Byte) (s : State) : State :=
  match s.register number with
  | some v => { s with hostSaw := some (.register number v) }
  | none => s.refuse

/-- The host reads `BUF[i]`: F_HOST_PROTOCOL while busy (R75), F_INDEX outside `0..N-1` (R61; log 22). -/
def readBuffer (i : Nat) (s : State) : State :=
  if s.busy then s.mark .hostProtocol
  else if s.cfg.capacity ≤ i then s.mark .index
  else { s with hostSaw := some (.bufByte i (Memory.read s.buf i)) }

/-- A CYCLE ends (R101): RUN reports and loops (R102), a plain CYCLE goes on to the next line. -/
def endCycle (loop : Bool) (s : State) : State := { s with hostPc := if loop then .report else .ready }

/-- The host's program has something left to do. -/
def State.hostPending (s : State) : Bool := decide ¬(s.hostPc = .ready ∧ s.program = [])

/-- The host's program can move: it has something left to do, and every move of it waits for `BUSY = 0` (R101). -/
def State.hostEnabled (s : State) : Bool := !s.busy && s.hostPending

/-- A host program runs (R80): it has something left to do, or an operation is in progress (log 3). -/
def State.hostRuns (s : State) : Bool := s.busy || s.hostPending

/-- One move of the host's program (R100 to R102); it waits while `BUSY = 1`. -/
def hostMove (s : State) : Host.Outcome State Fault Refusal :=
  if s.busy then .next s
  else
    match s.hostPc with
    | .ready =>
      match s.program with
      | [] => .next s
      | .op o :: rest => presentOp o.code { s with program := rest, hostPc := .waitOp }
      | .cycle :: rest => .next { s with program := rest, hostPc := .present .trigger false }
      | .run :: rest => .next { s with program := rest, hostPc := .poll }
    | .waitOp => .next { s with hostPc := .ready }
    | .present o loop => presentOp o.code { s with hostPc := .await o loop }
    | .await o loop =>
      if s.err = .ok then
        match HostOp.next o with
        | some o' => .next { s with hostPc := .present o' loop }
        | none => .next (endCycle loop s)
      else .next (endCycle loop s)
    | .poll =>
      if s.cancel then .next { s with program := [], hostPc := .ready }
      else .next { s with hostPc := .present .trigger true }
    | .report => .next { s with hostPc := .poll }

end Sys2Proof.Machine
end

