-- ==== Sys2Proof/Machine/Turns.lean ====
section
/-! DEFINITION. The moves of the three agents (spec/10_state.md R20): the sequencer's micro-step, the turns of the
agenda, and who moves when none is scheduled (logs 5 and 6). Fetching: the operation in progress is named by SEQ, a new
one is the op code the host presents, a frame is what stands at the command port. -/

namespace Sys2Proof.Machine

open Sys2Proof

/-- The instruction in progress, or `none` in IDLE (R23). -/
def Seq.instr (q : Seq) : Option Instr := (Seq.op q).map HostOp.instr

/-- The sequencer performs the micro-step that SEQ names (R24); in IDLE it has none. -/
def blockStep (s : State) : Host.Outcome State Fault Refusal :=
  match Seq.instr s.seq with
  | some i => exec i s
  | none => .next s

/-- The sequencer has an enabled step: not in IDLE, and not held in T_SLEEP (R19, R116). -/
def State.blockEnabled (s : State) : Bool :=
  s.busy && !decide (s.seq = .tSleep ∧ s.clk < s.wakeTime)

/-- Another agent writes a frame to the command port (R209; log 4). While a host program runs the port is the block's
alone (R80): the frame is not written, and the turn does nothing (log 3). -/
def frameTurn (f : Frame) (s : State) : Host.Outcome State Fault Refusal :=
  if s.hostRuns then .next s
  else
    match decodeFrame f with
    | .ok i => exec i s
    | .error _ => .next (s.cmdWrite f)

/-- One scheduled turn. The turn `start` drops the program that runs and its place at once, mid-cycle and while `BUSY = 1`
too (log 32), and the turn `cancel` sets the input to either level, so that a request can fall before a poll (log 33):
both are the model's choice. -/
def takeTurn (t : Turn) (s : State) : Host.Outcome State Fault Refusal :=
  match t with
  | .clock d => .next (s.tick d)
  | .block => blockStep s
  | .present op => presentOp op s
  | .readReg number => .next (readRegister number s)
  | .readBuf i => .next (readBuffer i s)
  | .reset => .next s.blockReset
  | .cancel level => .next { s with cancel := level }
  | .start lines => .next { s with program := lines, hostPc := .ready }
  | .host => hostMove s
  | .frame f => frameTurn f s

/-- Nothing is scheduled: the clock advances once the granted moves are used up, so that it grows without bound (R207;
log 26); before that the sequencer moves if it can, else the host's program if it can, else the clock (log 6). -/
def freeTurn (s : State) : Host.Outcome State Fault Refusal :=
  if s.untilTick = 0 then .next s.tickFree
  else if s.blockEnabled then blockStep s.spend
  else if s.hostEnabled then hostMove s.spend
  else .next s.tickFree

/-- Put an instruction where the next step takes it: a host operation is presented to an idle block, a frame stands at
the command port while no host program runs (R80; log 25). -/
def placeWord (s : State) (nbits w : Nat) : State :=
  match tableBytes nbits w with
  | [op] => { s with seq := .idle, agenda := .present op :: s.agenda }
  | [b0, b1, b2] => { s with seq := .idle, hostPc := .ready, program := [], agenda := .frame ⟨b0, b1, b2⟩ :: s.agenda }
  | _ => s

end Sys2Proof.Machine
end

