-- ==== Sys2Proof/Safety.lean ====
section
/-! DEFINITION. What counts as a safe run: final states (spec/60_exceptions.md R215) and the invariant of the block's
state (spec/10_state.md R23 to R34, spec/43_edge_locator.md R183). -/

namespace Sys2Proof.Machine

open Sys2Proof

/-- `FAULTS` is empty (R46). -/
def FaultSet.isEmpty (f : FaultSet) : Bool :=
  !(f.sourceOverrun || f.partialDecode || f.busy || f.hostProtocol || f.index)

/-- A run of a host program has ended in a final state (R215): the program has stopped, the block is idle, there is no
fault and no refusal. R215 names RUN's stop on a cancellation; that a program of operations and CYCLEs that has run out
counts too, and a host that has no program at all, is the model's choice (log 34). -/
def State.final (s : State) : Bool :=
  decide (s.program = [] ∧ s.hostPc = .ready ∧ s.seq = .idle) && FaultSet.isEmpty s.faults && !s.refused

/-- The next step is the sequencer's move: its turn is scheduled, or nothing is, a move is granted and it has an enabled
step (R20, R24; logs 5, 6 and 26). -/
abbrev State.sequencerMoves (s : State) : Prop :=
  s.agenda.head? = some .block ∨ (s.agenda = [] ∧ s.untilTick ≠ 0 ∧ s.blockEnabled = true)

/-- The state with other results of an earlier cycle in it: BUF, FILLED and the window with its valid flags (R232). -/
def State.withResults (m : Memory) (f : Nat) (x y : Option Nat) (a b : Bool) (s : State) : State :=
  { s with buf := m, filled := f, startBit := x, endBit := y, startValid := a, endValid := b }

/-- The state with another window in it: its two fields and their valid flags (R232). -/
def State.withWindow (x y : Option Nat) (a b : Bool) (s : State) : State :=
  { s with startBit := x, endBit := y, startValid := a, endValid := b }

/-- The invariant of the block's state. Each field names the rules it rests on. -/
structure State.Inv (s : State) : Prop where
  /-- `BUF` keeps its canonical form (the model's). -/
  bufCanonical : Memory.wf s.buf
  /-- Bytes at and above `FILLED` hold 0x00 (R73, R153). -/
  bufBelowFilled : ∀ c ∈ s.buf, c.1 < s.filled
  /-- `FILLED` lies in `0..N` (R32, R145). -/
  filledInRange : s.filled ≤ s.cfg.capacity
  /-- `CUR_OP` is the op code of the operation in progress, 0x00 in IDLE (R25). -/
  curOpMatches : s.curOp = ((Seq.op s.seq).map HostOp.code).getD 0#8
  /-- While an operation runs, `LAST_OP` names it, `ERR` is 0 and the window is not valid (R27, R29 to R31). -/
  runningFlags : ∀ o, Seq.op s.seq = some o →
    s.lastOp = HostOp.number o ∧ s.err = .ok ∧ s.startValid = false ∧ s.endValid = false
  /-- A TransportError belongs to TRIGGER or CAPINIT (R191). -/
  transportOp : s.err = .transport → s.lastOp = 1 ∨ s.lastOp = 2
  /-- A TimeoutError belongs to ACCUMULATE and leaves a partial buffer (R148, R192). -/
  timeoutOp : s.err = .timeout → s.lastOp = 3 ∧ s.filled < s.cfg.capacity
  /-- NoPulseStart belongs to LOCATE and leaves no valid edge (R177, R193). -/
  noPulseStartOp : s.err = .noPulseStart → s.lastOp = 4 ∧ s.startValid = false ∧ s.endValid = false
  /-- NoPulseEnd belongs to LOCATE and leaves the start edge valid (R176, R194). -/
  noPulseEndOp : s.err = .noPulseEnd → s.lastOp = 4 ∧ s.startValid = true ∧ s.endValid = false
  /-- A valid start edge lies in `1..8N-1` (R33, R183). -/
  startInRange : s.startValid = true →
    s.lastOp = 4 ∧ ∃ v, s.startBit = some v ∧ 1 ≤ v ∧ v < 8 * s.cfg.capacity
  /-- A valid end edge lies in `8..8N-1`, above the valid start edge (R34, R183). -/
  endInRange : s.endValid = true →
    s.err = .ok ∧ s.startValid = true ∧
      ∃ v e, s.startBit = some v ∧ s.endBit = some e ∧ v < e ∧ 8 ≤ e ∧ e < 8 * s.cfg.capacity
  /-- An ACCUMULATE that ended without error has filled the buffer (R146). -/
  accumulatedFull : s.seq = .idle → s.lastOp = 3 → s.err = .ok → s.filled = s.cfg.capacity
  /-- A LOCATE that ended without error has a valid window (R177). -/
  locatedValid : s.seq = .idle → s.lastOp = 4 → s.err = .ok → s.endValid = true
  /-- In T_SLEEP and T_LOW `WAKE` is defined (R38). -/
  wakeDefined : s.seq = .tSleep ∨ s.seq = .tLow → s.wake.isSome = true
  /-- In T_LOW the sleep is over: `CLK >= WAKE` (R124, R237). -/
  wakePassed : s.seq = .tLow → ∀ w, s.wake = some w → w ≤ s.clk
  /-- In A_READ and A_CHECK `T0` is defined (R37). -/
  t0Defined : s.seq = .aRead ∨ s.seq = .aCheck → s.t0.isSome = true
  /-- `T0` is not later than `CLK` (R17). -/
  t0Past : ∀ t, s.t0 = some t → t ≤ s.clk
  /-- In A_READ the buffer is not full (R144). -/
  readRoom : s.seq = .aRead → s.filled < s.cfg.capacity
  /-- Out of step, nothing is known of the adapter (R209, R211). -/
  lostUnknown : s.frameSync = .unknown → s.gpioVal = none ∧ s.gpioDir = none ∧ s.streaming = none
  /-- The adapter's value and direction are known together (R209, R211). -/
  gpioTogether : s.gpioVal.isSome = s.gpioDir.isSome
  /-- A known capture request lies in `1..65536` (R89, R210). -/
  streamingInRange : ∀ k, s.streaming = some k → 1 ≤ k ∧ k ≤ 65536

end Sys2Proof.Machine
end

