-- ==== Sys2Proof/Certificates/Slice0/Obligations.lean ====
section
/-! DEFINITION. The statements about the TPD block, for the provers. Each docstring names the rules of spec/ it formalises;
OBLIGATIONS.json lists them. A next state is written as an update of the state before, so that it says the frame too:
every field that is not named is unchanged, the whole buffer among them. `s.nextCount` and `s.nextRead` are the answers of
the environment, `s.dropCount` and `s.dropRead` use one up (logs 7 and 8). -/

open Sys2Proof Sys2Proof.Machine

/-! ### Encoding -/

/-- R85, R90, R96: reading an encoded instruction off a byte stream gives the instruction and the rest of the stream, for
every instruction with every operand. -/
def Obligations.DecodeReadsBackEveryEncoding : Prop :=
  ∀ (i : Instr) (rest : List Byte), decodeBytes i.level (encode i ++ rest) = .ok (i, rest)

/-- R95 to R99: whatever decodes is an instruction of that level, and its bytes are its encoding: each byte sequence has
one meaning. -/
def Obligations.EncodeReadsBackEveryDecoding : Prop :=
  ∀ (lvl : Level) (bs rest : List Byte) (i : Instr),
    decodeBytes lvl bs = .ok (i, rest) → i.level = lvl ∧ bs = encode i ++ rest

/-- R86, R96, R137: words written out from the spec. -/
def Obligations.SpecWordsDecode : Prop :=
  decodeBytes .host [0x01] = .ok (.trigger, []) ∧ decodeBytes .host [0x02] = .ok (.capinit, []) ∧
  decodeBytes .host [0x03] = .ok (.accumulate, []) ∧ decodeBytes .host [0x04] = .ok (.locate, []) ∧
  decodeBytes .wire [0x80, 0xFF, 0x01] = .ok (.gpioSet 0xFF 0x01, []) ∧
  decodeBytes .wire [0x2C, 0xFE, 0xFF] = .ok (.capture 0xFFFE, []) ∧
  decodeBytes .wire [0x2C, 0x00, 0x01] = .ok (.capture 0x0100, [])

/-- R90: `F1 = L[7:0]`, `F2 = L[15:8]`, `L = F1 + 256*F2`. -/
def Obligations.CaptureLengthIsLittleEndian : Prop :=
  ∀ l : BitVec 16,
    encode (.capture l) = [0x2C, l.extractLsb' 0 8, l.extractLsb' 8 8] ∧
    (l.extractLsb' 0 8).toNat + 256 * (l.extractLsb' 8 8).toNat = l.toNat

/-! ### A step runs the decoded instruction -/

/-- R95, R103: an op code that decodes, presented to an idle block, is run by the step; the turn is used up (the agenda of
turns is the model's, log 5). -/
def Obligations.StepRunsThePresentedOperation : Prop :=
  ∀ (s : State) (op : Byte) (rest : List Turn) (i : Instr),
    s.seq = .idle → s.agenda = .present op :: rest → decodeHostOp op = .ok i →
    step s = exec i { s with agenda := rest }

/-- R23, R24: the sequencer's turn runs the operation that SEQ names; with nothing scheduled and a move granted it runs
too, unless it is held in T_SLEEP (who moves then is the model's choice, logs 5, 6 and 26). -/
def Obligations.StepRunsTheOperationInProgress : Prop :=
  ∀ (s : State) (o : HostOp), Seq.op s.seq = some o →
    (∀ rest, s.agenda = .block :: rest → step s = exec o.instr { s with agenda := rest }) ∧
    (s.agenda = [] → s.untilTick ≠ 0 → ¬(s.seq = .tSleep ∧ s.clk < s.wakeTime) →
      step s = exec o.instr { s with untilTick := s.untilTick - 1 })

/-- R80, R86, R209: a frame that another agent writes to the command port and that decodes is run by the step, while no host
program runs; while one runs the port is the block's, and nothing but the turn changes (log 3). -/
def Obligations.StepRunsTheFrameAtThePort : Prop :=
  ∀ (s : State) (f : Frame) (rest : List Turn), s.agenda = .frame f :: rest →
    (s.hostRuns = false → ∀ i : Instr, decodeBytes .wire f.bytes = .ok (i, []) →
      step s = exec i { s with agenda := rest }) ∧
    (s.hostRuns = true → step s = .next { s with agenda := rest })

/-- The word the host places is the instruction the next step runs: a host operation on the idle block, a frame on the idle
block while no host program runs (log 25). -/
def Obligations.PlacedWordIsTheNextInstruction : Prop :=
  ∀ (s : State) (nbits w : Nat) (i : Instr), decodeTableWord nbits w = some i →
    step (s.withFetchWord nbits w) = exec i (
      if i.level = .host then { s with seq := .idle }
      else { s with seq := .idle, hostPc := .ready, program := [] })

/-! ### Issue and refusal -/

/-- R103: presenting a legal op code to an idle block runs its operation, whose step from IDLE is the issue, for each of
the four operations. -/
def Obligations.IssueStartsTheOperation : Prop :=
  ∀ (s : State), s.seq = .idle →
    (∀ (o : HostOp) (rest : List Turn), s.agenda = .present o.code :: rest →
      step s = exec o.instr { s with agenda := rest }) ∧
    exec .trigger s = .next { s with
      curOp := 0x01, lastOp := 1, err := .ok, startValid := false, endValid := false, seq := .tHigh } ∧
    exec .capinit s = .next { s with
      curOp := 0x02, lastOp := 2, err := .ok, startValid := false, endValid := false, seq := .cWrite } ∧
    exec .accumulate s = .next { s with
      curOp := 0x03, lastOp := 3, err := .ok, startValid := false, endValid := false, seq := .aInit } ∧
    exec .locate s = .next { s with
      curOp := 0x04, lastOp := 4, err := .ok, startValid := false, endValid := false, seq := .lScan }

/-- R97: a reserved op code sets REFUSED and changes nothing else. -/
def Obligations.ReservedOpCodeOnlySetsRefused : Prop :=
  ∀ (s : State) (op : Byte) (rest : List Turn),
    s.seq = .idle → s.agenda = .present op :: rest → op = 0#8 ∨ 5 ≤ op.toNat →
    step s = .next { s with agenda := rest, refused := true }

/-- R104: any op code, reserved ones too, presented while an operation runs sets F_BUSY and changes nothing else. -/
def Obligations.OpCodeWhileBusyOnlySetsBusyFault : Prop :=
  ∀ (s : State) (op : Byte) (rest : List Turn),
    s.seq ≠ .idle → s.agenda = .present op :: rest →
    step s = .next { s with agenda := rest, faults := { s.faults with busy := true } }

/-! ### TRIGGER -/

/-- R113, R115, R209: T_HIGH with a whole first frame. -/
def Obligations.TriggerWritesTheFirstFrame : Prop :=
  ∀ (s : State), s.seq = .tHigh → s.nextCount = 3 →
    exec .trigger s = .next { s.dropCount with
      cmdlog := s.cmdlog ++ [(⟨0x80, 0xFF, 1#8 <<< s.cfg.trigBit.val⟩, 3)]
      gpioVal := if s.frameSync = .aligned then some 0xFF else none
      gpioDir := if s.frameSync = .aligned then some (1#8 <<< s.cfg.trigBit.val) else none
      streaming := if s.frameSync = .aligned then s.streaming else none
      wake := some (s.clk + 10000)
      seq := .tSleep }

/-- R117, R105, R209: T_LOW with a whole second frame completes the operation. -/
def Obligations.TriggerWritesTheSecondFrame : Prop :=
  ∀ (s : State), s.seq = .tLow → s.nextCount = 3 →
    exec .trigger s = .next { s.dropCount with
      cmdlog := s.cmdlog ++
        [(⟨0x80, 0xFF#8 &&& ~~~(1#8 <<< s.cfg.trigBit.val), 1#8 <<< s.cfg.trigBit.val⟩, 3)]
      gpioVal := if s.frameSync = .aligned then some (0xFF#8 &&& ~~~(1#8 <<< s.cfg.trigBit.val)) else none
      gpioDir := if s.frameSync = .aligned then some (1#8 <<< s.cfg.trigBit.val) else none
      streaming := if s.frameSync = .aligned then s.streaming else none
      curOp := 0#8
      seq := .idle }

/-- R114, R121 to R123, R198, R211: any other count, at either frame, is a TransportError; the frame was logged, WAKE and
the window are not written, the adapter is unknown. -/
def Obligations.TriggerFrameFails : Prop :=
  ∀ (s : State), s.nextCount ≠ 3 →
    (s.seq = .tHigh →
      exec .trigger s = .next { s.dropCount with
        cmdlog := s.cmdlog ++ [(⟨0x80, 0xFF, 1#8 <<< s.cfg.trigBit.val⟩, s.nextCount)]
        gpioVal := none, gpioDir := none, frameSync := .unknown, streaming := none
        err := .transport, curOp := 0#8, seq := .idle }) ∧
    (s.seq = .tLow →
      exec .trigger s = .next { s.dropCount with
        cmdlog := s.cmdlog ++
          [(⟨0x80, 0xFF#8 &&& ~~~(1#8 <<< s.cfg.trigBit.val), 1#8 <<< s.cfg.trigBit.val⟩, s.nextCount)]
        gpioVal := none, gpioDir := none, frameSync := .unknown, streaming := none
        err := .transport, curOp := 0#8, seq := .idle })

/-- R116: T_SLEEP changes nothing while `CLK < WAKE`; with `CLK >= WAKE` it sets SEQ to T_LOW and nothing else. -/
def Obligations.TriggerSleepIsAHold : Prop :=
  ∀ (s : State) (w : Nat), s.seq = .tSleep → s.wake = some w →
    exec .trigger s = .next (if s.clk < w then s else { s with seq := .tLow })

/-- R43, R92, R93, R125: on an aligned adapter the first frame drives the trigger line high and the second drives it low;
of all eight lines only the trigger line is an output, and every other value bit is 1. -/
def Obligations.TriggerDrivesTheLine : Prop :=
  ∀ (s : State), s.frameSync = .aligned → s.nextCount = 3 → s.seq = .tHigh ∨ s.seq = .tLow →
    ∃ t v d, exec .trigger s = .next t ∧ t.gpioVal = some v ∧ t.gpioDir = some d ∧
      t.trigLevel = (if s.seq = .tHigh then .high else .low) ∧
      ∀ k < 8, (d.getLsbD k = decide (k = s.cfg.trigBit.val)) ∧ (k ≠ s.cfg.trigBit.val → v.getLsbD k = true)

/-- R124: no step of the machine but a reset takes SEQ out of T_SLEEP before `CLK >= WAKE`, and then it goes to T_LOW;
once `CLK >= WAKE` the sequencer's next turn goes on at once. -/
def Obligations.SleepNeverEndsEarly : Prop :=
  ∀ (s : State), s.seq = .tSleep →
    (∀ t : State, step s = .next t → s.agenda.head? ≠ some .reset → t.seq ≠ .tSleep →
      t.seq = .tLow ∧ s.wakeTime ≤ s.clk) ∧
    (∀ rest, s.agenda = .block :: rest → s.wakeTime ≤ s.clk →
      step s = .next { s with agenda := rest, seq := .tLow })

/-- R118, R126: the whole operation on an aligned adapter: issue, first frame, a clock advance of at least PULSE_NS, the
end of the sleep, second frame. -/
def Obligations.TriggerWholeOperation : Prop :=
  ∀ (s : State) (d : Nat) (ns : List Int) (rest : List Turn),
    s.seq = .idle → s.frameSync = .aligned → s.counts = 3 :: 3 :: ns → 10000 ≤ d →
    s.agenda = .present 0x01 :: .block :: .clock d :: .block :: .block :: rest →
    Host.Core.run Sys2Proof.core 5 s = .next ({ s with
      agenda := rest, counts := ns, clk := s.clk + d, wake := some (s.clk + 10000)
      curOp := 0#8, lastOp := 1, err := .ok, startValid := false, endValid := false
      gpioVal := some (0xFF#8 &&& ~~~(1#8 <<< s.cfg.trigBit.val)), gpioDir := some (1#8 <<< s.cfg.trigBit.val)
      cmdlog := s.cmdlog ++
        [(⟨0x80, 0xFF, 1#8 <<< s.cfg.trigBit.val⟩, 3),
         (⟨0x80, 0xFF#8 &&& ~~~(1#8 <<< s.cfg.trigBit.val), 1#8 <<< s.cfg.trigBit.val⟩, 3)] } : State)

/-- R237, R246: whatever the agents do in between, when SEQ is in T_LOW (the second frame's write is next) the clock is at
least PULSE_NS later than it was when an earlier first frame's write returned. -/
def Obligations.PulseGapIsAtLeastPulseNs : Prop :=
  ∀ (s t u : State) (n : Nat), s.seq = .tHigh → s.nextCount = 3 → exec .trigger s = .next t →
    Host.Core.run Sys2Proof.core n t = .next u → u.seq = .tLow → s.clk + 10000 ≤ u.clk

/-! ### CAPINIT -/

/-- R133, R90, R210: C_WRITE with a whole frame completes; the adapter is asked for `N` bytes. -/
def Obligations.CapinitStartsTheCapture : Prop :=
  ∀ (s : State), s.seq = .cWrite → s.nextCount = 3 →
    exec .capinit s = .next { s.dropCount with
      cmdlog := s.cmdlog ++
        [(⟨0x2C, BitVec.ofNat 8 ((s.cfg.capacity - 1) % 256), BitVec.ofNat 8 ((s.cfg.capacity - 1) / 256)⟩, 3)]
      gpioVal := if s.frameSync = .aligned then s.gpioVal else none
      gpioDir := if s.frameSync = .aligned then s.gpioDir else none
      streaming := if s.frameSync = .aligned then some s.cfg.capacity else none
      curOp := 0#8
      seq := .idle }

/-- R135, R198, R211: any other count is a TransportError. -/
def Obligations.CapinitFrameFails : Prop :=
  ∀ (s : State), s.seq = .cWrite → s.nextCount ≠ 3 →
    exec .capinit s = .next { s.dropCount with
      cmdlog := s.cmdlog ++
        [(⟨0x2C, BitVec.ofNat 8 ((s.cfg.capacity - 1) % 256), BitVec.ofNat 8 ((s.cfg.capacity - 1) / 256)⟩,
          s.nextCount)]
      gpioVal := none, gpioDir := none, frameSync := .unknown, streaming := none
      err := .transport, curOp := 0#8, seq := .idle }

/-! ### ACCUMULATE -/

/-- R143: A_INIT zero-fills the buffer and starts the time; every byte reads 0x00 after it. -/
def Obligations.AccumulateStartsEmpty : Prop :=
  ∀ (s : State), s.seq = .aInit →
    ∃ t, exec .accumulate s = .next t ∧
      t = { s with buf := t.buf, filled := 0, t0 := some s.clk, seq := .aRead } ∧
      ∀ i, Memory.read t.buf i = 0#8

/-- R144, R62: A_READ appends an answer of at most `N - FILLED` bytes at FILLED, in its order; every other byte keeps its
value, and the buffer keeps its form. -/
def Obligations.AccumulateAppendsTheAnswer : Prop :=
  ∀ (s : State), s.seq = .aRead → Memory.wf s.buf → s.nextRead.length ≤ s.cfg.capacity - s.filled →
    ∃ t, exec .accumulate s = .next t ∧
      t = { s.dropRead with buf := t.buf, filled := s.filled + s.nextRead.length, seq := .aCheck } ∧
      Memory.wf t.buf ∧
      (∀ k (h : k < s.nextRead.length), Memory.read t.buf (s.filled + k) = s.nextRead[k]) ∧
      (∀ i, i < s.filled ∨ s.filled + s.nextRead.length ≤ i → Memory.read t.buf i = Memory.read s.buf i)

/-- R150: a longer answer sets F_SOURCE_OVERRUN and appends nothing, and the state is not final. -/
def Obligations.SourceOverrunAppendsNothing : Prop :=
  ∀ (s : State), s.seq = .aRead → s.cfg.capacity - s.filled < s.nextRead.length →
    ∃ t, exec .accumulate s = .next t ∧
      t = { s.dropRead with faults := { s.faults with sourceOverrun := true } } ∧ t.final = false

/-- R146: A_CHECK: the full test first, then the strict deadline test, else the next read. -/
def Obligations.AccumulateChecksFullThenDeadline : Prop :=
  ∀ (s : State) (t0 : Nat), s.seq = .aCheck → s.t0 = some t0 →
    exec .accumulate s = .next (
      if s.filled = s.cfg.capacity then { s with curOp := 0#8, seq := .idle }
      else if 1000000000 < s.clk - t0 then { s with err := .timeout, curOp := 0#8, seq := .idle }
      else { s with seq := .aRead })

/-- R148: from every state of the invariant, a full buffer completes with ERR = 0 whatever the clock says, and a
TimeoutError is reported only with `FILLED < N`. -/
def Obligations.FullBufferWinsOverTheDeadline : Prop :=
  ∀ (s t : State), s.Inv → s.seq = .aCheck → exec .accumulate s = .next t →
    (s.filled = s.cfg.capacity → t.seq = .idle ∧ t.err = .ok) ∧
    (t.err = .timeout → t.filled < t.cfg.capacity)

/-- R149, R62, R156: with the sequencer's turns scheduled and the clock unchanged, a source that delivers exactly `N` bytes
in any pieces fills the buffer in stream order: A_INIT, then one A_READ and one A_CHECK per piece (the agenda of turns is
the model's, log 5; what is scheduled after these turns stays). -/
def Obligations.CaptureArrivesInStreamOrder : Prop :=
  ∀ (s : State) (pieces : List (List Byte)) (last : List Byte) (rest : List (List Byte)) (later : List Turn),
    s.seq = .aInit → s.agenda = List.replicate (1 + 2 * (pieces.length + 1)) .block ++ later →
    s.reads = pieces ++ last :: rest →
    pieces.flatten.length < s.cfg.capacity → (pieces ++ [last]).flatten.length = s.cfg.capacity →
    ∃ u : State, Host.Core.run Sys2Proof.core (1 + 2 * (pieces.length + 1)) s = .next u ∧
      u = { s with
        agenda := later
        buf := u.buf, filled := s.cfg.capacity, t0 := some s.clk, reads := rest, curOp := 0#8, seq := .idle } ∧
      ∀ i < s.cfg.capacity, (pieces ++ [last]).flatten[i]? = some (Memory.read u.buf i)

/-! ### LOCATE -/

/-- R169 to R173, R177: with `i` the first and `j > i` the last non-zero byte, and `a` and `b` their highest set bits,
LOCATE reports the window `8*i+a`, `8*j+b`, unless the start is bit 0. -/
def Obligations.LocateFindsTheWindow : Prop :=
  ∀ (s : State) (i j a b : Nat),
    s.seq = .lScan → s.filled = s.cfg.capacity → i < j → j < s.cfg.capacity →
    (∀ k < i, Memory.read s.buf k = 0#8) → (∀ k, j < k → k < s.cfg.capacity → Memory.read s.buf k = 0#8) →
    2 ^ a ≤ (Memory.read s.buf i).toNat → (Memory.read s.buf i).toNat < 2 ^ (a + 1) →
    2 ^ b ≤ (Memory.read s.buf j).toNat → (Memory.read s.buf j).toNat < 2 ^ (b + 1) →
    8 * i + a ≠ 0 →
    exec .locate s = .next { s with
      startBit := some (8 * i + a), endBit := some (8 * j + b), startValid := true, endValid := true
      curOp := 0#8, seq := .idle }

/-- R169, R177, R198: a full buffer of zero bytes is NoPulseStart; the window fields keep their content (log 17). -/
def Obligations.LocateEmptyBufferIsNoPulseStart : Prop :=
  ∀ (s : State), s.seq = .lScan → s.filled = s.cfg.capacity →
    (∀ k < s.cfg.capacity, Memory.read s.buf k = 0#8) →
    exec .locate s = .next { s with
      startValid := false, endValid := false, err := .noPulseStart, curOp := 0#8, seq := .idle }

/-- R172: the start index is 0 exactly when `BUF[0] = 0x01`, and then LOCATE reports NoPulseStart, whatever the later
bytes hold; the window fields keep their content (log 17). -/
def Obligations.LocateZeroBoundaryIsNoPulseStart : Prop :=
  ∀ (s : State), s.seq = .lScan → s.filled = s.cfg.capacity →
    ((∃ i a, (∀ k < i, Memory.read s.buf k = 0#8) ∧ 2 ^ a ≤ (Memory.read s.buf i).toNat ∧
        (Memory.read s.buf i).toNat < 2 ^ (a + 1) ∧ 8 * i + a = 0) ↔ Memory.read s.buf 0 = 0x01) ∧
    (Memory.read s.buf 0 = 0x01 →
      exec .locate s = .next { s with
        startValid := false, endValid := false, err := .noPulseStart, curOp := 0#8, seq := .idle })

/-- R173, R176, R198: one non-zero byte only, whose start index is not 0, is NoPulseEnd; the start edge stays visible, and
END_BIT keeps its content (log 17). -/
def Obligations.LocateLoneByteIsNoPulseEnd : Prop :=
  ∀ (s : State) (i a : Nat), s.seq = .lScan → s.filled = s.cfg.capacity → i < s.cfg.capacity →
    (∀ k < s.cfg.capacity, k ≠ i → Memory.read s.buf k = 0#8) →
    2 ^ a ≤ (Memory.read s.buf i).toNat → (Memory.read s.buf i).toNat < 2 ^ (a + 1) → 8 * i + a ≠ 0 →
    exec .locate s = .next { s with
      startBit := some (8 * i + a), startValid := true, endValid := false
      err := .noPulseEnd, curOp := 0#8, seq := .idle }

/-- R168: LOCATE on a buffer that is not full sets F_PARTIAL_DECODE and changes nothing else. -/
def Obligations.LocatePartialBufferOnlySetsItsFault : Prop :=
  ∀ (s : State), s.seq = .lScan → s.filled ≠ s.cfg.capacity →
    exec .locate s = .next { s with faults := { s.faults with partialDecode := true } }

/-- R174: the reading "scan the whole buffer and fail unless the end lies above the start" gives the same results: with
`e` the last non-zero byte of the whole buffer, NoPulseEnd holds exactly when its bit index is not above the start (that
END_BIT then keeps its content is log 17). -/
def Obligations.LocateEqualsTheWholeBufferReading : Prop :=
  ∀ (s : State) (i e : Nat), s.seq = .lScan → s.filled = s.cfg.capacity →
    i < s.cfg.capacity → Memory.read s.buf i ≠ 0#8 → (∀ k < i, Memory.read s.buf k = 0#8) →
    e < s.cfg.capacity → Memory.read s.buf e ≠ 0#8 →
    (∀ k, e < k → k < s.cfg.capacity → Memory.read s.buf k = 0#8) → bitIndex s.buf i ≠ 0 →
    exec .locate s = .next (
      if bitIndex s.buf e ≤ bitIndex s.buf i then
        { s with
          startBit := some (bitIndex s.buf i), startValid := true, endValid := false
          err := .noPulseEnd, curOp := 0#8, seq := .idle }
      else
        { s with
          startBit := some (bitIndex s.buf i), endBit := some (bitIndex s.buf e), startValid := true, endValid := true
          curOp := 0#8, seq := .idle })

/-- L1-5, R178: a second LOCATE, issued on what the first left, gives the same state again. -/
def Obligations.LocateTwiceGivesTheSame : Prop :=
  ∀ (s t : State), s.Inv → s.seq = .lScan → s.filled = s.cfg.capacity → exec .locate s = .next t →
    ∃ u, exec .locate t = .next u ∧ exec .locate u = .next t

/-! ### The wire frames -/

/-- R209: GPIO_SET written whole sets the adapter's value and direction and leaves FRAME_SYNC alone; while FRAME_SYNC is
UNKNOWN the effect of a whole frame, GPIO_SET or CAPTURE, is unknown. -/
def Obligations.GpioSetSetsTheBank : Prop :=
  ∀ (s : State), s.nextCount = 3 →
    (∀ v d : Byte,
      exec (.gpioSet v d) s = .next { s.dropCount with
        cmdlog := s.cmdlog ++ [(⟨0x80, v, d⟩, 3)]
        gpioVal := if s.frameSync = .aligned then some v else none
        gpioDir := if s.frameSync = .aligned then some d else none
        streaming := if s.frameSync = .aligned then s.streaming else none }) ∧
    (s.frameSync = .unknown → ∀ l : BitVec 16, ∃ t, exec (.capture l) s = .next t ∧
      t.gpioVal = none ∧ t.gpioDir = none ∧ t.streaming = none)

/-- R210: CAPTURE written whole to an aligned adapter asks for `L + 1` bytes; out of step its effect is unknown (R209). -/
def Obligations.CaptureRequestsItsLength : Prop :=
  ∀ (s : State) (l : BitVec 16), s.nextCount = 3 →
    exec (.capture l) s = .next { s.dropCount with
      cmdlog := s.cmdlog ++ [(⟨0x2C, l.extractLsb' 0 8, l.extractLsb' 8 8⟩, 3)]
      gpioVal := if s.frameSync = .aligned then s.gpioVal else none
      gpioDir := if s.frameSync = .aligned then s.gpioDir else none
      streaming := if s.frameSync = .aligned then some (l.toNat + 1) else none }

/-- R211: a write that returns any count but 3 leaves the parser, the lines and the capture UNKNOWN, for both frames. -/
def Obligations.MiscountedWriteLosesTheAdapter : Prop :=
  ∀ (s : State), s.nextCount ≠ 3 →
    (∀ v d : Byte,
      exec (.gpioSet v d) s = .next { s.dropCount with
        cmdlog := s.cmdlog ++ [(⟨0x80, v, d⟩, s.nextCount)]
        frameSync := .unknown, gpioVal := none, gpioDir := none, streaming := none }) ∧
    (∀ l : BitVec 16,
      exec (.capture l) s = .next { s.dropCount with
        cmdlog := s.cmdlog ++ [(⟨0x2C, l.extractLsb' 0 8, l.extractLsb' 8 8⟩, s.nextCount)]
        frameSync := .unknown, gpioVal := none, gpioDir := none, streaming := none })

/-- R44, R239: nothing brings FRAME_SYNC back to ALIGNED, a reset of the block included. -/
def Obligations.FrameSyncIsNeverRegained : Prop :=
  ∀ (s t : State), step s = .next t → s.frameSync = .unknown → t.frameSync = .unknown

/-! ### Host-visible registers and the buffer -/

/-- R26 to R31: the fields of STATUS; the reserved bits read 0. -/
def Obligations.StatusHasItsFields : Prop :=
  ∀ (s : State),
    s.statusWord.extractLsb' 0 3 =
      (match s.err with | .ok => 0 | .transport => 1 | .timeout => 2 | .noPulseStart => 3 | .noPulseEnd => 4) ∧
    (s.statusWord.getLsbD 3 = true ↔ s.seq ≠ .idle) ∧
    s.statusWord.getLsbD 4 = s.startValid ∧ s.statusWord.getLsbD 5 = s.endValid ∧
    s.statusWord.extractLsb' 6 2 = 0 ∧ (s.statusWord.extractLsb' 8 3).toNat = s.lastOp.val ∧
    s.statusWord.extractLsb' 11 5 = 0

/-- R36: at any time a read of registers 0 to 4 hands the host the value and changes nothing else; a read of 5 to 255 sets
REFUSED and changes nothing else (where the value stands is the model's choice, log 19). -/
def Obligations.RegisterReadHasNoSideEffect : Prop :=
  ∀ (s : State) (r : Byte) (rest : List Turn), s.agenda = .readReg r :: rest →
    (r.toNat < 5 → ∃ v, s.register r = some v ∧
      step s = .next { s with agenda := rest, hostSaw := some (.register r v) }) ∧
    (5 ≤ r.toNat → step s = .next { s with agenda := rest, refused := true })

/-- R26, R35, R48: what the registers hold: FILLED, the window (`none` while not valid), and CONFIG with `N-1` in [15:0],
TRIG_BIT in [18:16] and zeros above; the values up to the widths of R13. -/
def Obligations.RegistersHoldTheirContent : Prop :=
  ∀ (s : State),
    s.register 0 = some (some (s.statusWord.setWidth 32)) ∧
    (s.filled < 2 ^ 17 → ∃ w, s.register 1 = some (some w) ∧ w.toNat = s.filled) ∧
    (s.startValid = false → s.register 2 = some none) ∧
    (∀ v, s.startValid = true → s.startBit = some v → v < 2 ^ 19 →
      ∃ w, s.register 2 = some (some w) ∧ w.toNat = v) ∧
    (s.endValid = false → s.register 3 = some none) ∧
    (∀ v, s.endValid = true → s.endBit = some v → v < 2 ^ 19 →
      ∃ w, s.register 3 = some (some w) ∧ w.toNat = v) ∧
    (∃ w, s.register 4 = some (some w) ∧ w.toNat = (s.cfg.capacity - 1) + 65536 * s.cfg.trigBit.val)

/-- R75, R61: a host read of BUF while busy is F_HOST_PROTOCOL; while idle it hands over the byte, or is F_INDEX outside
`0..N-1`; nothing else changes (the order of the two tests is log 22, where the byte stands is log 19). -/
def Obligations.HostReadsTheBufferOnlyWhileIdle : Prop :=
  ∀ (s : State) (i : Nat) (rest : List Turn), s.agenda = .readBuf i :: rest →
    step s = .next (
      if s.seq ≠ .idle then { s with agenda := rest, faults := { s.faults with hostProtocol := true } }
      else if i < s.cfg.capacity then
        { s with agenda := rest, hostSaw := some (.bufByte i (Memory.read s.buf i)) }
      else { s with agenda := rest, faults := { s.faults with index := true } })

/-! ### Reset -/

/-- R230: the values after reset, for every configuration and every value of the clock; CONFIG holds its fixed value, and
the machine's own reset state is one of these (its clock and its OPEN parameters are free, logs 9 and 10). -/
def Obligations.ResetLeavesTheStatedValues : Prop :=
  (∀ (c : Cfg) (t : Nat),
    ((State.initial c t).seq = .idle ∧ (State.initial c t).curOp = 0#8 ∧ (State.initial c t).statusWord = 0#16 ∧
      (State.initial c t).filled = 0) ∧
    ((State.initial c t).startBit = none ∧ (State.initial c t).endBit = none ∧ (State.initial c t).t0 = none ∧
      (State.initial c t).wake = none) ∧
    (∀ i, Memory.read (State.initial c t).buf i = 0#8) ∧
    (FaultSet.isEmpty (State.initial c t).faults = true ∧ (State.initial c t).refused = false) ∧
    (∃ w, (State.initial c t).register 4 = some (some w) ∧ w.toNat = (c.capacity - 1) + 65536 * c.trigBit.val) ∧
    ((State.initial c t).clk = t ∧ (State.initial c t).cmdlog = [] ∧ (State.initial c t).gpioVal = none ∧
      (State.initial c t).gpioDir = none ∧ (State.initial c t).trigLevel = .unknown ∧
      (State.initial c t).frameSync = .aligned ∧ (State.initial c t).streaming = none)) ∧
  (∃ c t, State.reset = State.initial c t ∧ c.capacity = 65536)

/-- R230, R233: a reset ends the operation at once; while an operation runs the adapter becomes UNKNOWN, while none runs
it keeps its state; the clock, the command log, the parameters and the host's fields stay (logs 18 and 30). -/
def Obligations.ResetEndsTheOperation : Prop :=
  ∀ (s : State) (rest : List Turn), s.agenda = .reset :: rest →
    step s = .next { s with
      agenda := rest, seq := .idle, curOp := 0#8, err := .ok, startValid := false, endValid := false, lastOp := 0
      filled := 0, startBit := none, endBit := none, t0 := none, wake := none, buf := [], faults := {}
      refused := false
      frameSync := if s.seq = .idle then s.frameSync else .unknown
      gpioVal := if s.seq = .idle then s.gpioVal else none
      gpioDir := if s.seq = .idle then s.gpioDir else none
      streaming := if s.seq = .idle then s.streaming else none }

/-- The state after reset meets the invariant. -/
def Obligations.ResetMeetsTheBlockConditions : Prop := State.reset.Inv

/-! ### Whole-machine rules -/

/-- R25, R27 to R34, R38, R145, R183: every step keeps the invariant, from every state that meets it. -/
def Obligations.EveryStepKeepsTheBlockConditions : Prop :=
  ∀ (s t : State), s.Inv → step s = .next t → t.Inv

/-- R19: no state stops the machine: faults and refusals are marks, and a held state has a step (logs 6, 13, 14). -/
def Obligations.NoStateStopsTheMachine : Prop := ∀ (s : State), ∃ t, step s = .next t

/-- R24, R217: the successors of a micro-step; only a hold, F_SOURCE_OVERRUN and F_PARTIAL_DECODE leave SEQ where it is. And
for every step: SEQ leaves IDLE only by an issue, from the turn that presents the op code, from the host's program or with
nothing scheduled; while an operation runs it stays or takes a successor or an error exit; the turns of the other agents
leave it alone; a reset makes it IDLE. -/
def Obligations.SequencerFollowsItsSuccessors : Prop :=
  ∀ (s t : State),
    (∀ o, Seq.op s.seq = some o → exec o.instr s = .next t →
      (s.seq, t.seq) ∈ ([(.tHigh, .tSleep), (.tSleep, .tLow), (.tLow, .idle), (.cWrite, .idle), (.aInit, .aRead),
        (.aRead, .aCheck), (.aCheck, .aRead), (.aCheck, .idle), (.lScan, .idle)] : List (Seq × Seq)) ∨
      (t.err = .transport ∧ (s.seq, t.seq) = (.tHigh, .idle)) ∨
      (t = s ∧ s.seq = .tSleep) ∨
      (t.faults.sourceOverrun = true ∧ s.seq = .aRead ∧ t.seq = .aRead) ∨
      (t.faults.partialDecode = true ∧ s.seq = .lScan ∧ t.seq = .lScan)) ∧
    (step s = .next t →
      (s.seq = .idle → t.seq ≠ .idle → ∃ o : HostOp,
        (s.agenda.head? = some (.present o.code) ∨ s.agenda.head? = some .host ∨ s.agenda = []) ∧
        t.seq = HostOp.first o ∧ t.curOp = o.code ∧ t.lastOp = HostOp.number o) ∧
      (s.seq ≠ .idle → s.agenda.head? ≠ some .reset →
        t.seq = s.seq ∨
        ((s.agenda.head? = some .block ∨ s.agenda = []) ∧
          ((s.seq, t.seq) ∈ ([(.tHigh, .tSleep), (.tSleep, .tLow), (.tLow, .idle), (.cWrite, .idle), (.aInit, .aRead),
            (.aRead, .aCheck), (.aCheck, .aRead), (.aCheck, .idle), (.lScan, .idle)] : List (Seq × Seq)) ∨
          (t.err = .transport ∧ (s.seq, t.seq) = (.tHigh, .idle))))) ∧
      (∀ u, s.agenda.head? = some u →
        match u with
        | .clock _ | .readReg _ | .readBuf _ | .cancel _ | .start _ | .frame _ => t.seq = s.seq
        | .present _ | .host => s.seq ≠ .idle → t.seq = s.seq
        | .block => s.seq = .idle → t.seq = .idle
        | .reset => t.seq = .idle))

/-- R15, R39, R206: only the environment moves the clock, and never backwards: a clock turn adds exactly its amount and
changes nothing else; with nothing scheduled, when the moves granted to the others are used up or neither the sequencer nor
the host's program is able to move, the clock advances by a free positive amount and, the model's own two counters aside,
nothing else changes (logs 6, 9 and 26); and no other step moves the clock. -/
def Obligations.OnlyTheEnvironmentMovesTheClock : Prop :=
  ∀ (s : State),
    (∀ (d : Nat) (rest : List Turn), s.agenda = .clock d :: rest →
      step s = .next { s with agenda := rest, clk := s.clk + d }) ∧
    (s.agenda = [] → s.untilTick = 0 ∨ (s.blockEnabled = false ∧ s.hostEnabled = false) →
      ∃ c g k, s.clk < c ∧ step s = .next { s with clk := c, untilTick := g, draws := k }) ∧
    (∀ t : State, step s = .next t → (∀ d, s.agenda.head? ≠ some (.clock d)) →
      ¬(s.agenda = [] ∧ (s.untilTick = 0 ∨ (s.blockEnabled = false ∧ s.hostEnabled = false))) → t.clk = s.clk)

/-- R207: in every execution `CLK` grows without bound: from every state, for every time, some later state is past it (by
which moves it grows is log 26). -/
def Obligations.ClockGrowsWithoutBound : Prop :=
  ∀ (s : State) (time : Nat), ∃ n u, Host.Core.run Sys2Proof.core n s = .next u ∧ time < u.clk

/-- R154, R207, R208, R150, R168: every operation ends, but for the two faults of a micro-step, after which SEQ stays where
it is (log 12): from every state some later state is idle, or is one in which the sequencer's next move raises
F_SOURCE_OVERRUN or F_PARTIAL_DECODE (that the sequencer moves at all is log 26). -/
def Obligations.EveryOperationEndsOrFaults : Prop :=
  ∀ (s : State), ∃ n u, Host.Core.run Sys2Proof.core n s = .next u ∧
    (u.seq = .idle ∨
      (u.sequencerMoves ∧
        ((u.seq = .aRead ∧ u.cfg.capacity - u.filled < u.nextRead.length) ∨
          (u.seq = .lScan ∧ u.filled ≠ u.cfg.capacity))))

/-- R46, R47: no step but a reset of the block removes a fault or a refusal (that a reset does is log 18). -/
def Obligations.FaultsAndRefusalsStay : Prop :=
  ∀ (s t : State), step s = .next t → s.agenda.head? ≠ some .reset →
    (∀ r, FaultSet.has r s.faults = true → FaultSet.has r t.faults = true) ∧ (s.refused = true → t.refused = true)

/-- R42, R80, R91, R98: while a host program runs no agent but the block uses the device, and at any other time only a frame
of another agent does (log 3): the sequencer's move alone appends a call to CMDLOG, of one of the block's three frames;
without a move of it the answers of both device interfaces stay, and, a reset aside, the adapter stays; and only A_READ uses
up an answer of the sample source. -/
def Obligations.OnlyTheBlockUsesTheDevice : Prop :=
  ∀ (s t : State), step s = .next t → (s.hostRuns = false → ∀ f, s.agenda.head? ≠ some (.frame f)) →
    (t.cmdlog = s.cmdlog ∨
      (s.sequencerMoves ∧ ∃ f n, t.cmdlog = s.cmdlog ++ [(f, n)] ∧
        (f = ⟨0x80, 0xFF, 1#8 <<< s.cfg.trigBit.val⟩ ∨
         f = ⟨0x80, 0xFF#8 &&& ~~~(1#8 <<< s.cfg.trigBit.val), 1#8 <<< s.cfg.trigBit.val⟩ ∨
         f = ⟨0x2C, BitVec.ofNat 8 ((s.cfg.capacity - 1) % 256), BitVec.ofNat 8 ((s.cfg.capacity - 1) / 256)⟩))) ∧
    (¬s.sequencerMoves → t.counts = s.counts ∧ t.reads = s.reads ∧
      (s.agenda.head? ≠ some .reset → t.frameSync = s.frameSync ∧ t.gpioVal = s.gpioVal ∧ t.gpioDir = s.gpioDir ∧
        t.streaming = s.streaming)) ∧
    (s.seq ≠ .aRead → t.reads = s.reads)

/-- R32, R41: only the sequencer's move at A_INIT or A_READ, and a reset, write BUF and FILLED: the turns of every other
agent leave both, whatever SEQ is. -/
def Obligations.OnlyAccumulateWritesTheBuffer : Prop :=
  ∀ (s t : State), step s = .next t → s.agenda.head? ≠ some .reset →
    ¬(s.sequencerMoves ∧ (s.seq = .aInit ∨ s.seq = .aRead)) → t.buf = s.buf ∧ t.filled = s.filled

/-- R33, R34, R48: only the sequencer's move at L_SCAN on a full buffer, and a reset, write the window fields: the turns of
every other agent leave both, whatever SEQ is. -/
def Obligations.OnlyLocateWritesTheWindow : Prop :=
  ∀ (s t : State), step s = .next t → s.agenda.head? ≠ some .reset →
    ¬(s.sequencerMoves ∧ s.seq = .lScan ∧ s.filled = s.cfg.capacity) → t.startBit = s.startBit ∧ t.endBit = s.endBit

/-- R21, R35: no step writes a parameter. -/
def Obligations.ParametersNeverChange : Prop :=
  ∀ (s t : State), step s = .next t → t.cfg = s.cfg

/-- R232: what a cycle left in FILLED, BUF, the window and its valid flags does not reach the next one. Issue is the same
with any other values there and clears the flags; TRIGGER, CAPINIT and A_INIT are the same, and A_INIT rewrites FILLED and
BUF; A_READ and A_CHECK are the same with any other window; L_SCAN gives the same result and the same flags with any other
window before it; a window field whose flag is 0 after it aside, which keeps its old content: that is the model's choice,
the spec calls it undefined (R176, R177; log 17). -/
def Obligations.OldResultsDoNotLeakIntoACycle : Prop :=
  ∀ (s t : State) (m : Memory) (f : Nat) (x y : Option Nat) (a b : Bool),
    (s.seq = .idle → ∀ o : HostOp, exec o.instr s = .next t →
      t.startValid = false ∧ t.endValid = false ∧
      exec o.instr (s.withResults m f x y a b) = .next (t.withResults m f x y false false)) ∧
    (s.seq ≠ .idle →
      (exec .trigger s = .next t →
        exec .trigger (s.withResults m f x y a b) = .next (t.withResults m f x y a b)) ∧
      (exec .capinit s = .next t →
        exec .capinit (s.withResults m f x y a b) = .next (t.withResults m f x y a b))) ∧
    (s.seq = .aInit → exec .accumulate s = .next t →
      exec .accumulate (s.withResults m f x y a b) = .next (t.withWindow x y a b)) ∧
    (s.seq = .aRead ∨ s.seq = .aCheck → exec .accumulate s = .next t →
      exec .accumulate (s.withWindow x y a b) = .next (t.withWindow x y a b)) ∧
    (s.seq = .lScan → exec .locate s = .next t →
      exec .locate (s.withWindow x y a b) = .next (
        if s.filled = s.cfg.capacity then
          t.withWindow (if t.startValid then t.startBit else x) (if t.endValid then t.endBit else y)
            t.startValid t.endValid
        else t.withWindow x y a b))

/-! ### The host's program -/

/-- R100 to R102: what the host's program does at the idle block: before a line, an operation line presents its op code, a
CYCLE stands before TRIGGER, RUN stands at its poll, and with no line left nothing moves; in CYCLE it presents the operation
it stands at; after an operation line it goes on to the next line. While BUSY = 1 every move of it waits. With nothing
scheduled and a move granted its move is the same as at its scheduled turn. (The host's program agent is the model's, log
20; who moves is logs 5, 6 and 26; what a start does to a program that runs is log 32.) -/
def Obligations.HostProgramTakesItsLines : Prop :=
  ∀ (s : State),
    (∀ rest, s.agenda = .host :: rest → s.seq = .idle →
      (s.hostPc = .ready → s.program = [] → step s = .next { s with agenda := rest }) ∧
      (∀ o lines, s.hostPc = .ready → s.program = .op o :: lines →
        step s = exec o.instr { s with agenda := rest, program := lines, hostPc := .waitOp }) ∧
      (∀ lines, s.hostPc = .ready → s.program = .cycle :: lines →
        step s = .next { s with agenda := rest, program := lines, hostPc := .present .trigger false }) ∧
      (∀ lines, s.hostPc = .ready → s.program = .run :: lines →
        step s = .next { s with agenda := rest, program := lines, hostPc := .poll }) ∧
      (s.hostPc = .waitOp → step s = .next { s with agenda := rest, hostPc := .ready }) ∧
      (∀ o loop, s.hostPc = .present o loop →
        step s = exec o.instr { s with agenda := rest, hostPc := .await o loop })) ∧
    (∀ rest, s.agenda = .host :: rest → s.seq ≠ .idle → step s = .next { s with agenda := rest }) ∧
    (s.agenda = [] → s.untilTick ≠ 0 → s.hostEnabled = true →
      step s = step { s with agenda := [.host], untilTick := s.untilTick - 1 }) ∧
    (∀ lines rest, s.agenda = .start lines :: rest →
      step s = .next { s with agenda := rest, program := lines, hostPc := .ready })

/-- R101: after an operation the host waits for BUSY = 0; then it ends the cycle at an error or after LOCATE, and else goes
on to the next operation in the order TRIGGER, CAPINIT, ACCUMULATE, LOCATE (log 20). -/
def Obligations.CycleAbortsAtTheFirstError : Prop :=
  ∀ (s : State) (o : HostOp) (loop : Bool) (rest : List Turn),
    s.agenda = .host :: rest → s.hostPc = .await o loop →
    step s = .next (
      if s.seq ≠ .idle then { s with agenda := rest }
      else { s with
        agenda := rest
        hostPc :=
          match s.err, o with
          | .ok, .trigger => .present .capinit loop
          | .ok, .capinit => .present .accumulate loop
          | .ok, .accumulate => .present .locate loop
          | _, _ => if loop then .report else .ready })

/-- R102, R204: RUN polls the cancellation at the cycle boundary only: it stops there, or starts the next cycle; after a
cycle it reports and polls again; the input's own turn sets it and nothing else; and at every other place of the host's
program no step of any agent depends on the cancellation input (log 20; that the input can fall again is log 33). -/
def Obligations.RunPollsAtTheCycleBoundary : Prop :=
  ∀ (s : State),
    (∀ rest, s.agenda = .host :: rest → s.seq = .idle →
      (s.hostPc = .poll →
        step s = .next (
          if s.cancel then { s with agenda := rest, program := [], hostPc := .ready }
          else { s with agenda := rest, hostPc := .present .trigger true })) ∧
      (s.hostPc = .report → step s = .next { s with agenda := rest, hostPc := .poll })) ∧
    (∀ level rest, s.agenda = .cancel level :: rest → step s = .next { s with agenda := rest, cancel := level }) ∧
    (∀ (t : State) (c : Bool), s.hostPc ≠ .poll → (∀ l, s.agenda.head? ≠ some (.cancel l)) →
      step s = .next t → step { s with cancel := c } = .next { t with cancel := c })
end

