-- ==== Sys2Proof/Laws/Memory.lean ====
section
/-! SUPPORT. Laws of the Waveform Buffer: a read after a write, and the canonical form, which every memory operation
keeps. -/

namespace Sys2Proof.Machine

open Sys2Proof

@[simp] theorem Memory.read_zeroed (i : Nat) : Memory.read Memory.zeroed i = 0#8 := rfl

theorem Memory.zeroed_wf : Memory.wf Memory.zeroed := ⟨.nil, fun c h => by cases h⟩

/-- A write leaves every other byte alone. -/
theorem Memory.read_write_other (m : Memory) {i j : Nat} (v : Byte) (h : j ≠ i) :
    Memory.read (Memory.write m i v) j = Memory.read m j := by
  induction m with
  | nil => by_cases hv : v = 0#8 <;> simp [Memory.write, Memory.read, hv, h]
  | cons c m ih =>
    obtain ⟨b, w⟩ := c
    simp only [Memory.write]
    split
    · split <;> simp [Memory.read, h]
    · split
      · rename_i hb; subst hb
        split <;> simp [Memory.read, h]
      · simp [Memory.read, ih]

/-- The indices a write leaves in the list: the written one, or one that was listed. -/
theorem Memory.mem_write {m : Memory} {i : Nat} {v : Byte} {c : Host.Cell} (h : c ∈ Memory.write m i v) :
    (c = (i, v) ∧ v ≠ 0#8) ∨ c ∈ m := by
  induction m with
  | nil => by_cases hv : v = 0#8 <;> simp_all [Memory.write]
  | cons d m ih =>
    obtain ⟨b, w⟩ := d
    simp only [Memory.write] at h
    split at h
    · split at h
      · exact .inr h
      · rename_i hv
        exact (List.mem_cons.1 h).imp (fun h => ⟨h, hv⟩) id
    · split at h
      · split at h
        · exact .inr (List.mem_cons_of_mem _ h)
        · rename_i hv
          exact (List.mem_cons.1 h).imp (fun h => ⟨h, hv⟩) (List.mem_cons_of_mem _)
      · rcases List.mem_cons.1 h with h | h
        · simp [h]
        · exact (ih h).imp id (List.mem_cons_of_mem _)

/-- A write keeps the canonical form. -/
theorem Memory.write_wf {m : Memory} (hm : Memory.wf m) (i : Nat) (v : Byte) : Memory.wf (Memory.write m i v) := by
  induction m with
  | nil => by_cases hv : v = 0#8 <;> simp [Memory.write, Memory.wf, hv]
  | cons d m ih =>
    obtain ⟨b, w⟩ := d
    obtain ⟨hs, hz⟩ := hm
    obtain ⟨hb, hs⟩ := List.pairwise_cons.1 hs
    have hm' : Memory.wf m := ⟨hs, fun c hc => hz c (List.mem_cons_of_mem _ hc)⟩
    have hw : w ≠ 0#8 := hz (b, w) (by simp)
    simp only [Memory.write]
    split
    · rename_i hi
      split
      · exact ⟨List.pairwise_cons.2 ⟨hb, hs⟩, hz⟩
      · rename_i hv
        refine ⟨List.pairwise_cons.2 ⟨fun c hc => ?_, List.pairwise_cons.2 ⟨hb, hs⟩⟩, fun c hc => ?_⟩
        · rcases List.mem_cons.1 hc with rfl | hc
          · exact hi
          · exact Nat.lt_trans hi (hb c hc)
        · rcases List.mem_cons.1 hc with rfl | hc
          · exact hv
          · exact hz c hc
    · split
      · rename_i hi; subst hi
        split
        · exact hm'
        · rename_i hv
          refine ⟨List.pairwise_cons.2 ⟨hb, hm'.1⟩, fun c hc => ?_⟩
          rcases List.mem_cons.1 hc with rfl | hc
          · exact hv
          · exact hm'.2 c hc
      · obtain ⟨is, iz⟩ := ih hm'
        refine ⟨List.pairwise_cons.2 ⟨fun c hc => ?_, is⟩, fun c hc => ?_⟩
        · rcases Memory.mem_write hc with ⟨rfl, _⟩ | hc
          · show b < i
            omega
          · exact hb c hc
        · rcases List.mem_cons.1 hc with rfl | hc
          · exact hw
          · exact iz c hc

/-- An index below every listed one reads as unlisted. -/
theorem Memory.read_of_lt {m : Memory} {i : Nat} (h : ∀ c ∈ m, i < c.1) : Memory.read m i = 0#8 := by
  induction m with
  | nil => rfl
  | cons c m ih =>
    have : i < c.1 := h c (by simp)
    simp only [Memory.read]
    rw [if_neg (by omega)]
    exact ih fun d hd => h d (by simp [hd])

/-- An index above every listed one reads as unlisted. -/
theorem Memory.read_of_gt {m : Memory} {i : Nat} (h : ∀ c ∈ m, c.1 < i) : Memory.read m i = 0#8 := by
  induction m with
  | nil => rfl
  | cons c m ih =>
    have : c.1 < i := h c (by simp)
    simp only [Memory.read]
    rw [if_neg (by omega)]
    exact ih fun d hd => h d (by simp [hd])

/-- A read after a write to the same index gives the byte written. -/
theorem Memory.read_write_same {m : Memory} (hm : Memory.wf m) (i : Nat) (v : Byte) :
    Memory.read (Memory.write m i v) i = v := by
  induction m with
  | nil => by_cases hv : v = 0#8 <;> simp [Memory.write, Memory.read, hv]
  | cons d m ih =>
    obtain ⟨b, w⟩ := d
    obtain ⟨hs, hz⟩ := hm
    obtain ⟨hb, hs⟩ := List.pairwise_cons.1 hs
    have hm' : Memory.wf m := ⟨hs, fun c hc => hz c (List.mem_cons_of_mem _ hc)⟩
    simp only [Memory.write]
    split
    · rename_i hi
      split
      · rename_i hv; subst hv
        refine Memory.read_of_lt fun c hc => ?_
        rcases List.mem_cons.1 hc with rfl | hc
        · exact hi
        · exact Nat.lt_trans hi (hb c hc)
      · simp [Memory.read]
    · split
      · rename_i hi; subst hi
        split
        · rename_i hv; subst hv
          exact Memory.read_of_lt hb
        · simp [Memory.read]
      · rename_i hi
        simp [Memory.read, hi, ih hm']

/-- Writing a run of bytes keeps the canonical form. -/
theorem Memory.writeBytes_wf {m : Memory} (hm : Memory.wf m) (i : Nat) (vs : List Byte) :
    Memory.wf (Memory.writeBytes m i vs) := by
  induction vs generalizing m i with
  | nil => exact hm
  | cons v vs ih => exact ih (Memory.write_wf hm i v) (i + 1)

/-- A run of bytes leaves the bytes below it alone. -/
theorem Memory.read_writeBytes_below (m : Memory) {i j : Nat} (vs : List Byte) (h : j < i) :
    Memory.read (Memory.writeBytes m i vs) j = Memory.read m j := by
  induction vs generalizing m i with
  | nil => rfl
  | cons v vs ih =>
    rw [Memory.writeBytes, ih (Memory.write m i v) (by omega), Memory.read_write_other m v (by omega)]

/-- A run of bytes leaves the bytes above it alone. -/
theorem Memory.read_writeBytes_above (m : Memory) {i j : Nat} (vs : List Byte) (h : i + vs.length ≤ j) :
    Memory.read (Memory.writeBytes m i vs) j = Memory.read m j := by
  induction vs generalizing m i with
  | nil => rfl
  | cons v vs ih =>
    simp only [List.length_cons] at h
    rw [Memory.writeBytes, ih (Memory.write m i v) (by omega), Memory.read_write_other m v (by omega)]

/-- Inside a run, byte `k` of it is read at `i + k` (R62). -/
theorem Memory.read_writeBytes_inside {m : Memory} (hm : Memory.wf m) (i : Nat) (vs : List Byte) {k : Nat}
    (h : k < vs.length) : Memory.read (Memory.writeBytes m i vs) (i + k) = vs[k] := by
  induction vs generalizing m i k with
  | nil => simp at h
  | cons v vs ih =>
    rw [Memory.writeBytes]
    cases k with
    | zero =>
      show Memory.read _ i = v
      rw [Memory.read_writeBytes_below _ _ (by omega), Memory.read_write_same hm]
    | succ k =>
      have := ih (Memory.write_wf hm i v) (i + 1) (k := k) (by simpa using h)
      rw [show i + 1 + k = i + (k + 1) by omega] at this
      simpa using this

/-- The indices a run leaves in the list: in the run, or listed before. -/
theorem Memory.mem_writeBytes {m : Memory} {i : Nat} {vs : List Byte} {c : Host.Cell}
    (h : c ∈ Memory.writeBytes m i vs) : (i ≤ c.1 ∧ c.1 < i + vs.length) ∨ c ∈ m := by
  induction vs generalizing m i with
  | nil => exact .inr h
  | cons v vs ih =>
    simp only [List.length_cons]
    rcases ih h with ⟨h1, h2⟩ | h
    · exact .inl (by omega)
    · rcases Memory.mem_write h with ⟨rfl, _⟩ | h
      · exact .inl (by simp)
      · exact .inr h

end Sys2Proof.Machine
end

