-- ==== Sys2Proof/Laws/State.lean ====
section
/-! SUPPORT. The fields of State after each named update: one small law per field and update, so that no later proof
unfolds a record update. -/

namespace Sys2Proof.Machine

open Sys2Proof

variable (s : State)

/-! ### dropCount -/

@[simp] theorem dropCount_cfg : (s.dropCount).cfg = s.cfg := by unfold State.dropCount; split <;> rfl
@[simp] theorem dropCount_seq : (s.dropCount).seq = s.seq := by unfold State.dropCount; split <;> rfl
@[simp] theorem dropCount_curOp : (s.dropCount).curOp = s.curOp := by unfold State.dropCount; split <;> rfl
@[simp] theorem dropCount_err : (s.dropCount).err = s.err := by unfold State.dropCount; split <;> rfl
@[simp] theorem dropCount_startValid : (s.dropCount).startValid = s.startValid := by unfold State.dropCount; split <;> rfl
@[simp] theorem dropCount_endValid : (s.dropCount).endValid = s.endValid := by unfold State.dropCount; split <;> rfl
@[simp] theorem dropCount_lastOp : (s.dropCount).lastOp = s.lastOp := by unfold State.dropCount; split <;> rfl
@[simp] theorem dropCount_filled : (s.dropCount).filled = s.filled := by unfold State.dropCount; split <;> rfl
@[simp] theorem dropCount_startBit : (s.dropCount).startBit = s.startBit := by unfold State.dropCount; split <;> rfl
@[simp] theorem dropCount_endBit : (s.dropCount).endBit = s.endBit := by unfold State.dropCount; split <;> rfl
@[simp] theorem dropCount_t0 : (s.dropCount).t0 = s.t0 := by unfold State.dropCount; split <;> rfl
@[simp] theorem dropCount_wake : (s.dropCount).wake = s.wake := by unfold State.dropCount; split <;> rfl
@[simp] theorem dropCount_buf : (s.dropCount).buf = s.buf := by unfold State.dropCount; split <;> rfl
@[simp] theorem dropCount_clk : (s.dropCount).clk = s.clk := by unfold State.dropCount; split <;> rfl
@[simp] theorem dropCount_cmdlog : (s.dropCount).cmdlog = s.cmdlog := by unfold State.dropCount; split <;> rfl
@[simp] theorem dropCount_gpioVal : (s.dropCount).gpioVal = s.gpioVal := by unfold State.dropCount; split <;> rfl
@[simp] theorem dropCount_gpioDir : (s.dropCount).gpioDir = s.gpioDir := by unfold State.dropCount; split <;> rfl
@[simp] theorem dropCount_frameSync : (s.dropCount).frameSync = s.frameSync := by unfold State.dropCount; split <;> rfl
@[simp] theorem dropCount_streaming : (s.dropCount).streaming = s.streaming := by unfold State.dropCount; split <;> rfl
@[simp] theorem dropCount_faults : (s.dropCount).faults = s.faults := by unfold State.dropCount; split <;> rfl
@[simp] theorem dropCount_refused : (s.dropCount).refused = s.refused := by unfold State.dropCount; split <;> rfl
@[simp] theorem dropCount_agenda : (s.dropCount).agenda = s.agenda := by unfold State.dropCount; split <;> rfl
@[simp] theorem dropCount_reads : (s.dropCount).reads = s.reads := by unfold State.dropCount; split <;> rfl
@[simp] theorem dropCount_hostSaw : (s.dropCount).hostSaw = s.hostSaw := by unfold State.dropCount; split <;> rfl
@[simp] theorem dropCount_hostPc : (s.dropCount).hostPc = s.hostPc := by unfold State.dropCount; split <;> rfl
@[simp] theorem dropCount_program : (s.dropCount).program = s.program := by unfold State.dropCount; split <;> rfl
@[simp] theorem dropCount_cancel : (s.dropCount).cancel = s.cancel := by unfold State.dropCount; split <;> rfl
@[simp] theorem dropCount_untilTick : (s.dropCount).untilTick = s.untilTick := by unfold State.dropCount; split <;> rfl

/-! ### dropRead -/

@[simp] theorem dropRead_cfg : (s.dropRead).cfg = s.cfg := by unfold State.dropRead; split <;> rfl
@[simp] theorem dropRead_seq : (s.dropRead).seq = s.seq := by unfold State.dropRead; split <;> rfl
@[simp] theorem dropRead_curOp : (s.dropRead).curOp = s.curOp := by unfold State.dropRead; split <;> rfl
@[simp] theorem dropRead_err : (s.dropRead).err = s.err := by unfold State.dropRead; split <;> rfl
@[simp] theorem dropRead_startValid : (s.dropRead).startValid = s.startValid := by unfold State.dropRead; split <;> rfl
@[simp] theorem dropRead_endValid : (s.dropRead).endValid = s.endValid := by unfold State.dropRead; split <;> rfl
@[simp] theorem dropRead_lastOp : (s.dropRead).lastOp = s.lastOp := by unfold State.dropRead; split <;> rfl
@[simp] theorem dropRead_filled : (s.dropRead).filled = s.filled := by unfold State.dropRead; split <;> rfl
@[simp] theorem dropRead_startBit : (s.dropRead).startBit = s.startBit := by unfold State.dropRead; split <;> rfl
@[simp] theorem dropRead_endBit : (s.dropRead).endBit = s.endBit := by unfold State.dropRead; split <;> rfl
@[simp] theorem dropRead_t0 : (s.dropRead).t0 = s.t0 := by unfold State.dropRead; split <;> rfl
@[simp] theorem dropRead_wake : (s.dropRead).wake = s.wake := by unfold State.dropRead; split <;> rfl
@[simp] theorem dropRead_buf : (s.dropRead).buf = s.buf := by unfold State.dropRead; split <;> rfl
@[simp] theorem dropRead_clk : (s.dropRead).clk = s.clk := by unfold State.dropRead; split <;> rfl
@[simp] theorem dropRead_cmdlog : (s.dropRead).cmdlog = s.cmdlog := by unfold State.dropRead; split <;> rfl
@[simp] theorem dropRead_gpioVal : (s.dropRead).gpioVal = s.gpioVal := by unfold State.dropRead; split <;> rfl
@[simp] theorem dropRead_gpioDir : (s.dropRead).gpioDir = s.gpioDir := by unfold State.dropRead; split <;> rfl
@[simp] theorem dropRead_frameSync : (s.dropRead).frameSync = s.frameSync := by unfold State.dropRead; split <;> rfl
@[simp] theorem dropRead_streaming : (s.dropRead).streaming = s.streaming := by unfold State.dropRead; split <;> rfl
@[simp] theorem dropRead_faults : (s.dropRead).faults = s.faults := by unfold State.dropRead; split <;> rfl
@[simp] theorem dropRead_refused : (s.dropRead).refused = s.refused := by unfold State.dropRead; split <;> rfl
@[simp] theorem dropRead_agenda : (s.dropRead).agenda = s.agenda := by unfold State.dropRead; split <;> rfl
@[simp] theorem dropRead_counts : (s.dropRead).counts = s.counts := by unfold State.dropRead; split <;> rfl
@[simp] theorem dropRead_hostSaw : (s.dropRead).hostSaw = s.hostSaw := by unfold State.dropRead; split <;> rfl
@[simp] theorem dropRead_hostPc : (s.dropRead).hostPc = s.hostPc := by unfold State.dropRead; split <;> rfl
@[simp] theorem dropRead_program : (s.dropRead).program = s.program := by unfold State.dropRead; split <;> rfl
@[simp] theorem dropRead_cancel : (s.dropRead).cancel = s.cancel := by unfold State.dropRead; split <;> rfl
@[simp] theorem dropRead_untilTick : (s.dropRead).untilTick = s.untilTick := by unfold State.dropRead; split <;> rfl

/-! ### tick -/

@[simp] theorem tick_cfg (d : Nat) : (s.tick d).cfg = s.cfg := rfl
@[simp] theorem tick_seq (d : Nat) : (s.tick d).seq = s.seq := rfl
@[simp] theorem tick_curOp (d : Nat) : (s.tick d).curOp = s.curOp := rfl
@[simp] theorem tick_err (d : Nat) : (s.tick d).err = s.err := rfl
@[simp] theorem tick_startValid (d : Nat) : (s.tick d).startValid = s.startValid := rfl
@[simp] theorem tick_endValid (d : Nat) : (s.tick d).endValid = s.endValid := rfl
@[simp] theorem tick_lastOp (d : Nat) : (s.tick d).lastOp = s.lastOp := rfl
@[simp] theorem tick_filled (d : Nat) : (s.tick d).filled = s.filled := rfl
@[simp] theorem tick_startBit (d : Nat) : (s.tick d).startBit = s.startBit := rfl
@[simp] theorem tick_endBit (d : Nat) : (s.tick d).endBit = s.endBit := rfl
@[simp] theorem tick_t0 (d : Nat) : (s.tick d).t0 = s.t0 := rfl
@[simp] theorem tick_wake (d : Nat) : (s.tick d).wake = s.wake := rfl
@[simp] theorem tick_buf (d : Nat) : (s.tick d).buf = s.buf := rfl
@[simp] theorem tick_clk (d : Nat) : (s.tick d).clk = s.clk + d := rfl
@[simp] theorem tick_cmdlog (d : Nat) : (s.tick d).cmdlog = s.cmdlog := rfl
@[simp] theorem tick_gpioVal (d : Nat) : (s.tick d).gpioVal = s.gpioVal := rfl
@[simp] theorem tick_gpioDir (d : Nat) : (s.tick d).gpioDir = s.gpioDir := rfl
@[simp] theorem tick_frameSync (d : Nat) : (s.tick d).frameSync = s.frameSync := rfl
@[simp] theorem tick_streaming (d : Nat) : (s.tick d).streaming = s.streaming := rfl
@[simp] theorem tick_faults (d : Nat) : (s.tick d).faults = s.faults := rfl
@[simp] theorem tick_refused (d : Nat) : (s.tick d).refused = s.refused := rfl
@[simp] theorem tick_agenda (d : Nat) : (s.tick d).agenda = s.agenda := rfl
@[simp] theorem tick_counts (d : Nat) : (s.tick d).counts = s.counts := rfl
@[simp] theorem tick_reads (d : Nat) : (s.tick d).reads = s.reads := rfl
@[simp] theorem tick_draws (d : Nat) : (s.tick d).draws = s.draws := rfl
@[simp] theorem tick_untilTick (d : Nat) : (s.tick d).untilTick = s.untilTick := rfl
@[simp] theorem tick_hostSaw (d : Nat) : (s.tick d).hostSaw = s.hostSaw := rfl
@[simp] theorem tick_hostPc (d : Nat) : (s.tick d).hostPc = s.hostPc := rfl
@[simp] theorem tick_program (d : Nat) : (s.tick d).program = s.program := rfl
@[simp] theorem tick_cancel (d : Nat) : (s.tick d).cancel = s.cancel := rfl

/-! ### tickFree -/

@[simp] theorem tickFree_cfg : (s.tickFree).cfg = s.cfg := rfl
@[simp] theorem tickFree_seq : (s.tickFree).seq = s.seq := rfl
@[simp] theorem tickFree_curOp : (s.tickFree).curOp = s.curOp := rfl
@[simp] theorem tickFree_err : (s.tickFree).err = s.err := rfl
@[simp] theorem tickFree_startValid : (s.tickFree).startValid = s.startValid := rfl
@[simp] theorem tickFree_endValid : (s.tickFree).endValid = s.endValid := rfl
@[simp] theorem tickFree_lastOp : (s.tickFree).lastOp = s.lastOp := rfl
@[simp] theorem tickFree_filled : (s.tickFree).filled = s.filled := rfl
@[simp] theorem tickFree_startBit : (s.tickFree).startBit = s.startBit := rfl
@[simp] theorem tickFree_endBit : (s.tickFree).endBit = s.endBit := rfl
@[simp] theorem tickFree_t0 : (s.tickFree).t0 = s.t0 := rfl
@[simp] theorem tickFree_wake : (s.tickFree).wake = s.wake := rfl
@[simp] theorem tickFree_buf : (s.tickFree).buf = s.buf := rfl
@[simp] theorem tickFree_clk : (s.tickFree).clk = s.clk + (Config.freeAdvance s.draws + 1) := rfl
@[simp] theorem tickFree_cmdlog : (s.tickFree).cmdlog = s.cmdlog := rfl
@[simp] theorem tickFree_gpioVal : (s.tickFree).gpioVal = s.gpioVal := rfl
@[simp] theorem tickFree_gpioDir : (s.tickFree).gpioDir = s.gpioDir := rfl
@[simp] theorem tickFree_frameSync : (s.tickFree).frameSync = s.frameSync := rfl
@[simp] theorem tickFree_streaming : (s.tickFree).streaming = s.streaming := rfl
@[simp] theorem tickFree_faults : (s.tickFree).faults = s.faults := rfl
@[simp] theorem tickFree_refused : (s.tickFree).refused = s.refused := rfl
@[simp] theorem tickFree_agenda : (s.tickFree).agenda = s.agenda := rfl
@[simp] theorem tickFree_counts : (s.tickFree).counts = s.counts := rfl
@[simp] theorem tickFree_reads : (s.tickFree).reads = s.reads := rfl
@[simp] theorem tickFree_draws : (s.tickFree).draws = s.draws + 1 := rfl
@[simp] theorem tickFree_untilTick : (s.tickFree).untilTick = Config.freeGap s.draws + 1 := rfl
@[simp] theorem tickFree_hostSaw : (s.tickFree).hostSaw = s.hostSaw := rfl
@[simp] theorem tickFree_hostPc : (s.tickFree).hostPc = s.hostPc := rfl
@[simp] theorem tickFree_program : (s.tickFree).program = s.program := rfl
@[simp] theorem tickFree_cancel : (s.tickFree).cancel = s.cancel := rfl

/-! ### spend -/

@[simp] theorem spend_cfg : (s.spend).cfg = s.cfg := rfl
@[simp] theorem spend_seq : (s.spend).seq = s.seq := rfl
@[simp] theorem spend_curOp : (s.spend).curOp = s.curOp := rfl
@[simp] theorem spend_err : (s.spend).err = s.err := rfl
@[simp] theorem spend_startValid : (s.spend).startValid = s.startValid := rfl
@[simp] theorem spend_endValid : (s.spend).endValid = s.endValid := rfl
@[simp] theorem spend_lastOp : (s.spend).lastOp = s.lastOp := rfl
@[simp] theorem spend_filled : (s.spend).filled = s.filled := rfl
@[simp] theorem spend_startBit : (s.spend).startBit = s.startBit := rfl
@[simp] theorem spend_endBit : (s.spend).endBit = s.endBit := rfl
@[simp] theorem spend_t0 : (s.spend).t0 = s.t0 := rfl
@[simp] theorem spend_wake : (s.spend).wake = s.wake := rfl
@[simp] theorem spend_buf : (s.spend).buf = s.buf := rfl
@[simp] theorem spend_clk : (s.spend).clk = s.clk := rfl
@[simp] theorem spend_cmdlog : (s.spend).cmdlog = s.cmdlog := rfl
@[simp] theorem spend_gpioVal : (s.spend).gpioVal = s.gpioVal := rfl
@[simp] theorem spend_gpioDir : (s.spend).gpioDir = s.gpioDir := rfl
@[simp] theorem spend_frameSync : (s.spend).frameSync = s.frameSync := rfl
@[simp] theorem spend_streaming : (s.spend).streaming = s.streaming := rfl
@[simp] theorem spend_faults : (s.spend).faults = s.faults := rfl
@[simp] theorem spend_refused : (s.spend).refused = s.refused := rfl
@[simp] theorem spend_agenda : (s.spend).agenda = s.agenda := rfl
@[simp] theorem spend_counts : (s.spend).counts = s.counts := rfl
@[simp] theorem spend_reads : (s.spend).reads = s.reads := rfl
@[simp] theorem spend_draws : (s.spend).draws = s.draws := rfl
@[simp] theorem spend_untilTick : (s.spend).untilTick = s.untilTick - 1 := rfl
@[simp] theorem spend_hostSaw : (s.spend).hostSaw = s.hostSaw := rfl
@[simp] theorem spend_hostPc : (s.spend).hostPc = s.hostPc := rfl
@[simp] theorem spend_program : (s.spend).program = s.program := rfl
@[simp] theorem spend_cancel : (s.spend).cancel = s.cancel := rfl

/-! ### lostSync -/

@[simp] theorem lostSync_cfg : (s.lostSync).cfg = s.cfg := rfl
@[simp] theorem lostSync_seq : (s.lostSync).seq = s.seq := rfl
@[simp] theorem lostSync_curOp : (s.lostSync).curOp = s.curOp := rfl
@[simp] theorem lostSync_err : (s.lostSync).err = s.err := rfl
@[simp] theorem lostSync_startValid : (s.lostSync).startValid = s.startValid := rfl
@[simp] theorem lostSync_endValid : (s.lostSync).endValid = s.endValid := rfl
@[simp] theorem lostSync_lastOp : (s.lostSync).lastOp = s.lastOp := rfl
@[simp] theorem lostSync_filled : (s.lostSync).filled = s.filled := rfl
@[simp] theorem lostSync_startBit : (s.lostSync).startBit = s.startBit := rfl
@[simp] theorem lostSync_endBit : (s.lostSync).endBit = s.endBit := rfl
@[simp] theorem lostSync_t0 : (s.lostSync).t0 = s.t0 := rfl
@[simp] theorem lostSync_wake : (s.lostSync).wake = s.wake := rfl
@[simp] theorem lostSync_buf : (s.lostSync).buf = s.buf := rfl
@[simp] theorem lostSync_clk : (s.lostSync).clk = s.clk := rfl
@[simp] theorem lostSync_cmdlog : (s.lostSync).cmdlog = s.cmdlog := rfl
@[simp] theorem lostSync_gpioVal : (s.lostSync).gpioVal = none := rfl
@[simp] theorem lostSync_gpioDir : (s.lostSync).gpioDir = none := rfl
@[simp] theorem lostSync_frameSync : (s.lostSync).frameSync = .unknown := rfl
@[simp] theorem lostSync_streaming : (s.lostSync).streaming = none := rfl
@[simp] theorem lostSync_faults : (s.lostSync).faults = s.faults := rfl
@[simp] theorem lostSync_refused : (s.lostSync).refused = s.refused := rfl
@[simp] theorem lostSync_agenda : (s.lostSync).agenda = s.agenda := rfl
@[simp] theorem lostSync_counts : (s.lostSync).counts = s.counts := rfl
@[simp] theorem lostSync_reads : (s.lostSync).reads = s.reads := rfl
@[simp] theorem lostSync_draws : (s.lostSync).draws = s.draws := rfl
@[simp] theorem lostSync_untilTick : (s.lostSync).untilTick = s.untilTick := rfl
@[simp] theorem lostSync_hostSaw : (s.lostSync).hostSaw = s.hostSaw := rfl
@[simp] theorem lostSync_hostPc : (s.lostSync).hostPc = s.hostPc := rfl
@[simp] theorem lostSync_program : (s.lostSync).program = s.program := rfl
@[simp] theorem lostSync_cancel : (s.lostSync).cancel = s.cancel := rfl

/-! ### lostEffect -/

@[simp] theorem lostEffect_cfg : (s.lostEffect).cfg = s.cfg := rfl
@[simp] theorem lostEffect_seq : (s.lostEffect).seq = s.seq := rfl
@[simp] theorem lostEffect_curOp : (s.lostEffect).curOp = s.curOp := rfl
@[simp] theorem lostEffect_err : (s.lostEffect).err = s.err := rfl
@[simp] theorem lostEffect_startValid : (s.lostEffect).startValid = s.startValid := rfl
@[simp] theorem lostEffect_endValid : (s.lostEffect).endValid = s.endValid := rfl
@[simp] theorem lostEffect_lastOp : (s.lostEffect).lastOp = s.lastOp := rfl
@[simp] theorem lostEffect_filled : (s.lostEffect).filled = s.filled := rfl
@[simp] theorem lostEffect_startBit : (s.lostEffect).startBit = s.startBit := rfl
@[simp] theorem lostEffect_endBit : (s.lostEffect).endBit = s.endBit := rfl
@[simp] theorem lostEffect_t0 : (s.lostEffect).t0 = s.t0 := rfl
@[simp] theorem lostEffect_wake : (s.lostEffect).wake = s.wake := rfl
@[simp] theorem lostEffect_buf : (s.lostEffect).buf = s.buf := rfl
@[simp] theorem lostEffect_clk : (s.lostEffect).clk = s.clk := rfl
@[simp] theorem lostEffect_cmdlog : (s.lostEffect).cmdlog = s.cmdlog := rfl
@[simp] theorem lostEffect_gpioVal : (s.lostEffect).gpioVal = none := rfl
@[simp] theorem lostEffect_gpioDir : (s.lostEffect).gpioDir = none := rfl
@[simp] theorem lostEffect_frameSync : (s.lostEffect).frameSync = s.frameSync := rfl
@[simp] theorem lostEffect_streaming : (s.lostEffect).streaming = none := rfl
@[simp] theorem lostEffect_faults : (s.lostEffect).faults = s.faults := rfl
@[simp] theorem lostEffect_refused : (s.lostEffect).refused = s.refused := rfl
@[simp] theorem lostEffect_agenda : (s.lostEffect).agenda = s.agenda := rfl
@[simp] theorem lostEffect_counts : (s.lostEffect).counts = s.counts := rfl
@[simp] theorem lostEffect_reads : (s.lostEffect).reads = s.reads := rfl
@[simp] theorem lostEffect_draws : (s.lostEffect).draws = s.draws := rfl
@[simp] theorem lostEffect_untilTick : (s.lostEffect).untilTick = s.untilTick := rfl
@[simp] theorem lostEffect_hostSaw : (s.lostEffect).hostSaw = s.hostSaw := rfl
@[simp] theorem lostEffect_hostPc : (s.lostEffect).hostPc = s.hostPc := rfl
@[simp] theorem lostEffect_program : (s.lostEffect).program = s.program := rfl
@[simp] theorem lostEffect_cancel : (s.lostEffect).cancel = s.cancel := rfl

/-! ### adapter -/

@[simp] theorem adapter_cfg (f : Frame) (n : Int) : (State.adapter f n s).cfg = s.cfg := by
  unfold State.adapter; split <;> [split; rfl] <;> [rfl; split] <;> rfl
@[simp] theorem adapter_seq (f : Frame) (n : Int) : (State.adapter f n s).seq = s.seq := by
  unfold State.adapter; split <;> [split; rfl] <;> [rfl; split] <;> rfl
@[simp] theorem adapter_curOp (f : Frame) (n : Int) : (State.adapter f n s).curOp = s.curOp := by
  unfold State.adapter; split <;> [split; rfl] <;> [rfl; split] <;> rfl
@[simp] theorem adapter_err (f : Frame) (n : Int) : (State.adapter f n s).err = s.err := by
  unfold State.adapter; split <;> [split; rfl] <;> [rfl; split] <;> rfl
@[simp] theorem adapter_startValid (f : Frame) (n : Int) : (State.adapter f n s).startValid = s.startValid := by
  unfold State.adapter; split <;> [split; rfl] <;> [rfl; split] <;> rfl
@[simp] theorem adapter_endValid (f : Frame) (n : Int) : (State.adapter f n s).endValid = s.endValid := by
  unfold State.adapter; split <;> [split; rfl] <;> [rfl; split] <;> rfl
@[simp] theorem adapter_lastOp (f : Frame) (n : Int) : (State.adapter f n s).lastOp = s.lastOp := by
  unfold State.adapter; split <;> [split; rfl] <;> [rfl; split] <;> rfl
@[simp] theorem adapter_filled (f : Frame) (n : Int) : (State.adapter f n s).filled = s.filled := by
  unfold State.adapter; split <;> [split; rfl] <;> [rfl; split] <;> rfl
@[simp] theorem adapter_startBit (f : Frame) (n : Int) : (State.adapter f n s).startBit = s.startBit := by
  unfold State.adapter; split <;> [split; rfl] <;> [rfl; split] <;> rfl
@[simp] theorem adapter_endBit (f : Frame) (n : Int) : (State.adapter f n s).endBit = s.endBit := by
  unfold State.adapter; split <;> [split; rfl] <;> [rfl; split] <;> rfl
@[simp] theorem adapter_t0 (f : Frame) (n : Int) : (State.adapter f n s).t0 = s.t0 := by
  unfold State.adapter; split <;> [split; rfl] <;> [rfl; split] <;> rfl
@[simp] theorem adapter_wake (f : Frame) (n : Int) : (State.adapter f n s).wake = s.wake := by
  unfold State.adapter; split <;> [split; rfl] <;> [rfl; split] <;> rfl
@[simp] theorem adapter_buf (f : Frame) (n : Int) : (State.adapter f n s).buf = s.buf := by
  unfold State.adapter; split <;> [split; rfl] <;> [rfl; split] <;> rfl
@[simp] theorem adapter_clk (f : Frame) (n : Int) : (State.adapter f n s).clk = s.clk := by
  unfold State.adapter; split <;> [split; rfl] <;> [rfl; split] <;> rfl
@[simp] theorem adapter_cmdlog (f : Frame) (n : Int) : (State.adapter f n s).cmdlog = s.cmdlog := by
  unfold State.adapter; split <;> [split; rfl] <;> [rfl; split] <;> rfl
@[simp] theorem adapter_faults (f : Frame) (n : Int) : (State.adapter f n s).faults = s.faults := by
  unfold State.adapter; split <;> [split; rfl] <;> [rfl; split] <;> rfl
@[simp] theorem adapter_refused (f : Frame) (n : Int) : (State.adapter f n s).refused = s.refused := by
  unfold State.adapter; split <;> [split; rfl] <;> [rfl; split] <;> rfl
@[simp] theorem adapter_agenda (f : Frame) (n : Int) : (State.adapter f n s).agenda = s.agenda := by
  unfold State.adapter; split <;> [split; rfl] <;> [rfl; split] <;> rfl
@[simp] theorem adapter_counts (f : Frame) (n : Int) : (State.adapter f n s).counts = s.counts := by
  unfold State.adapter; split <;> [split; rfl] <;> [rfl; split] <;> rfl
@[simp] theorem adapter_reads (f : Frame) (n : Int) : (State.adapter f n s).reads = s.reads := by
  unfold State.adapter; split <;> [split; rfl] <;> [rfl; split] <;> rfl
@[simp] theorem adapter_draws (f : Frame) (n : Int) : (State.adapter f n s).draws = s.draws := by
  unfold State.adapter; split <;> [split; rfl] <;> [rfl; split] <;> rfl
@[simp] theorem adapter_untilTick (f : Frame) (n : Int) : (State.adapter f n s).untilTick = s.untilTick := by
  unfold State.adapter; split <;> [split; rfl] <;> [rfl; split] <;> rfl
@[simp] theorem adapter_hostSaw (f : Frame) (n : Int) : (State.adapter f n s).hostSaw = s.hostSaw := by
  unfold State.adapter; split <;> [split; rfl] <;> [rfl; split] <;> rfl
@[simp] theorem adapter_hostPc (f : Frame) (n : Int) : (State.adapter f n s).hostPc = s.hostPc := by
  unfold State.adapter; split <;> [split; rfl] <;> [rfl; split] <;> rfl
@[simp] theorem adapter_program (f : Frame) (n : Int) : (State.adapter f n s).program = s.program := by
  unfold State.adapter; split <;> [split; rfl] <;> [rfl; split] <;> rfl
@[simp] theorem adapter_cancel (f : Frame) (n : Int) : (State.adapter f n s).cancel = s.cancel := by
  unfold State.adapter; split <;> [split; rfl] <;> [rfl; split] <;> rfl

/-! ### cmdWrite -/

@[simp] theorem cmdWrite_cfg (f : Frame) : (s.cmdWrite f).cfg = s.cfg := by simp [State.cmdWrite]
@[simp] theorem cmdWrite_seq (f : Frame) : (s.cmdWrite f).seq = s.seq := by simp [State.cmdWrite]
@[simp] theorem cmdWrite_curOp (f : Frame) : (s.cmdWrite f).curOp = s.curOp := by simp [State.cmdWrite]
@[simp] theorem cmdWrite_err (f : Frame) : (s.cmdWrite f).err = s.err := by simp [State.cmdWrite]
@[simp] theorem cmdWrite_startValid (f : Frame) : (s.cmdWrite f).startValid = s.startValid := by simp [State.cmdWrite]
@[simp] theorem cmdWrite_endValid (f : Frame) : (s.cmdWrite f).endValid = s.endValid := by simp [State.cmdWrite]
@[simp] theorem cmdWrite_lastOp (f : Frame) : (s.cmdWrite f).lastOp = s.lastOp := by simp [State.cmdWrite]
@[simp] theorem cmdWrite_filled (f : Frame) : (s.cmdWrite f).filled = s.filled := by simp [State.cmdWrite]
@[simp] theorem cmdWrite_startBit (f : Frame) : (s.cmdWrite f).startBit = s.startBit := by simp [State.cmdWrite]
@[simp] theorem cmdWrite_endBit (f : Frame) : (s.cmdWrite f).endBit = s.endBit := by simp [State.cmdWrite]
@[simp] theorem cmdWrite_t0 (f : Frame) : (s.cmdWrite f).t0 = s.t0 := by simp [State.cmdWrite]
@[simp] theorem cmdWrite_wake (f : Frame) : (s.cmdWrite f).wake = s.wake := by simp [State.cmdWrite]
@[simp] theorem cmdWrite_buf (f : Frame) : (s.cmdWrite f).buf = s.buf := by simp [State.cmdWrite]
@[simp] theorem cmdWrite_clk (f : Frame) : (s.cmdWrite f).clk = s.clk := by simp [State.cmdWrite]
@[simp] theorem cmdWrite_cmdlog (f : Frame) : (s.cmdWrite f).cmdlog = s.cmdlog ++ [(f, s.nextCount)] := by simp [State.cmdWrite]
@[simp] theorem cmdWrite_faults (f : Frame) : (s.cmdWrite f).faults = s.faults := by simp [State.cmdWrite]
@[simp] theorem cmdWrite_refused (f : Frame) : (s.cmdWrite f).refused = s.refused := by simp [State.cmdWrite]
@[simp] theorem cmdWrite_agenda (f : Frame) : (s.cmdWrite f).agenda = s.agenda := by simp [State.cmdWrite]
@[simp] theorem cmdWrite_counts (f : Frame) : (s.cmdWrite f).counts = s.dropCount.counts := by simp [State.cmdWrite]
@[simp] theorem cmdWrite_reads (f : Frame) : (s.cmdWrite f).reads = s.reads := by simp [State.cmdWrite]
@[simp] theorem cmdWrite_draws (f : Frame) : (s.cmdWrite f).draws = s.dropCount.draws := by simp [State.cmdWrite]
@[simp] theorem cmdWrite_untilTick (f : Frame) : (s.cmdWrite f).untilTick = s.untilTick := by simp [State.cmdWrite]
@[simp] theorem cmdWrite_hostSaw (f : Frame) : (s.cmdWrite f).hostSaw = s.hostSaw := by simp [State.cmdWrite]
@[simp] theorem cmdWrite_hostPc (f : Frame) : (s.cmdWrite f).hostPc = s.hostPc := by simp [State.cmdWrite]
@[simp] theorem cmdWrite_program (f : Frame) : (s.cmdWrite f).program = s.program := by simp [State.cmdWrite]
@[simp] theorem cmdWrite_cancel (f : Frame) : (s.cmdWrite f).cancel = s.cancel := by simp [State.cmdWrite]

/-! ### issue -/

@[simp] theorem issue_cfg (o : HostOp) : (s.issue o).cfg = s.cfg := rfl
@[simp] theorem issue_seq (o : HostOp) : (s.issue o).seq = HostOp.first o := rfl
@[simp] theorem issue_curOp (o : HostOp) : (s.issue o).curOp = o.code := rfl
@[simp] theorem issue_err (o : HostOp) : (s.issue o).err = .ok := rfl
@[simp] theorem issue_startValid (o : HostOp) : (s.issue o).startValid = false := rfl
@[simp] theorem issue_endValid (o : HostOp) : (s.issue o).endValid = false := rfl
@[simp] theorem issue_lastOp (o : HostOp) : (s.issue o).lastOp = HostOp.number o := rfl
@[simp] theorem issue_filled (o : HostOp) : (s.issue o).filled = s.filled := rfl
@[simp] theorem issue_startBit (o : HostOp) : (s.issue o).startBit = s.startBit := rfl
@[simp] theorem issue_endBit (o : HostOp) : (s.issue o).endBit = s.endBit := rfl
@[simp] theorem issue_t0 (o : HostOp) : (s.issue o).t0 = s.t0 := rfl
@[simp] theorem issue_wake (o : HostOp) : (s.issue o).wake = s.wake := rfl
@[simp] theorem issue_buf (o : HostOp) : (s.issue o).buf = s.buf := rfl
@[simp] theorem issue_clk (o : HostOp) : (s.issue o).clk = s.clk := rfl
@[simp] theorem issue_cmdlog (o : HostOp) : (s.issue o).cmdlog = s.cmdlog := rfl
@[simp] theorem issue_gpioVal (o : HostOp) : (s.issue o).gpioVal = s.gpioVal := rfl
@[simp] theorem issue_gpioDir (o : HostOp) : (s.issue o).gpioDir = s.gpioDir := rfl
@[simp] theorem issue_frameSync (o : HostOp) : (s.issue o).frameSync = s.frameSync := rfl
@[simp] theorem issue_streaming (o : HostOp) : (s.issue o).streaming = s.streaming := rfl
@[simp] theorem issue_faults (o : HostOp) : (s.issue o).faults = s.faults := rfl
@[simp] theorem issue_refused (o : HostOp) : (s.issue o).refused = s.refused := rfl
@[simp] theorem issue_agenda (o : HostOp) : (s.issue o).agenda = s.agenda := rfl
@[simp] theorem issue_counts (o : HostOp) : (s.issue o).counts = s.counts := rfl
@[simp] theorem issue_reads (o : HostOp) : (s.issue o).reads = s.reads := rfl
@[simp] theorem issue_draws (o : HostOp) : (s.issue o).draws = s.draws := rfl
@[simp] theorem issue_untilTick (o : HostOp) : (s.issue o).untilTick = s.untilTick := rfl
@[simp] theorem issue_hostSaw (o : HostOp) : (s.issue o).hostSaw = s.hostSaw := rfl
@[simp] theorem issue_hostPc (o : HostOp) : (s.issue o).hostPc = s.hostPc := rfl
@[simp] theorem issue_program (o : HostOp) : (s.issue o).program = s.program := rfl
@[simp] theorem issue_cancel (o : HostOp) : (s.issue o).cancel = s.cancel := rfl

/-! ### complete -/

@[simp] theorem complete_cfg : (s.complete).cfg = s.cfg := rfl
@[simp] theorem complete_seq : (s.complete).seq = .idle := rfl
@[simp] theorem complete_curOp : (s.complete).curOp = 0#8 := rfl
@[simp] theorem complete_err : (s.complete).err = s.err := rfl
@[simp] theorem complete_startValid : (s.complete).startValid = s.startValid := rfl
@[simp] theorem complete_endValid : (s.complete).endValid = s.endValid := rfl
@[simp] theorem complete_lastOp : (s.complete).lastOp = s.lastOp := rfl
@[simp] theorem complete_filled : (s.complete).filled = s.filled := rfl
@[simp] theorem complete_startBit : (s.complete).startBit = s.startBit := rfl
@[simp] theorem complete_endBit : (s.complete).endBit = s.endBit := rfl
@[simp] theorem complete_t0 : (s.complete).t0 = s.t0 := rfl
@[simp] theorem complete_wake : (s.complete).wake = s.wake := rfl
@[simp] theorem complete_buf : (s.complete).buf = s.buf := rfl
@[simp] theorem complete_clk : (s.complete).clk = s.clk := rfl
@[simp] theorem complete_cmdlog : (s.complete).cmdlog = s.cmdlog := rfl
@[simp] theorem complete_gpioVal : (s.complete).gpioVal = s.gpioVal := rfl
@[simp] theorem complete_gpioDir : (s.complete).gpioDir = s.gpioDir := rfl
@[simp] theorem complete_frameSync : (s.complete).frameSync = s.frameSync := rfl
@[simp] theorem complete_streaming : (s.complete).streaming = s.streaming := rfl
@[simp] theorem complete_faults : (s.complete).faults = s.faults := rfl
@[simp] theorem complete_refused : (s.complete).refused = s.refused := rfl
@[simp] theorem complete_agenda : (s.complete).agenda = s.agenda := rfl
@[simp] theorem complete_counts : (s.complete).counts = s.counts := rfl
@[simp] theorem complete_reads : (s.complete).reads = s.reads := rfl
@[simp] theorem complete_draws : (s.complete).draws = s.draws := rfl
@[simp] theorem complete_untilTick : (s.complete).untilTick = s.untilTick := rfl
@[simp] theorem complete_hostSaw : (s.complete).hostSaw = s.hostSaw := rfl
@[simp] theorem complete_hostPc : (s.complete).hostPc = s.hostPc := rfl
@[simp] theorem complete_program : (s.complete).program = s.program := rfl
@[simp] theorem complete_cancel : (s.complete).cancel = s.cancel := rfl

/-! ### raise -/

@[simp] theorem raise_cfg (e : Err) : (s.raise e).cfg = s.cfg := rfl
@[simp] theorem raise_seq (e : Err) : (s.raise e).seq = .idle := rfl
@[simp] theorem raise_curOp (e : Err) : (s.raise e).curOp = 0#8 := rfl
@[simp] theorem raise_err (e : Err) : (s.raise e).err = e := rfl
@[simp] theorem raise_startValid (e : Err) : (s.raise e).startValid = s.startValid := rfl
@[simp] theorem raise_endValid (e : Err) : (s.raise e).endValid = s.endValid := rfl
@[simp] theorem raise_lastOp (e : Err) : (s.raise e).lastOp = s.lastOp := rfl
@[simp] theorem raise_filled (e : Err) : (s.raise e).filled = s.filled := rfl
@[simp] theorem raise_startBit (e : Err) : (s.raise e).startBit = s.startBit := rfl
@[simp] theorem raise_endBit (e : Err) : (s.raise e).endBit = s.endBit := rfl
@[simp] theorem raise_t0 (e : Err) : (s.raise e).t0 = s.t0 := rfl
@[simp] theorem raise_wake (e : Err) : (s.raise e).wake = s.wake := rfl
@[simp] theorem raise_buf (e : Err) : (s.raise e).buf = s.buf := rfl
@[simp] theorem raise_clk (e : Err) : (s.raise e).clk = s.clk := rfl
@[simp] theorem raise_cmdlog (e : Err) : (s.raise e).cmdlog = s.cmdlog := rfl
@[simp] theorem raise_gpioVal (e : Err) : (s.raise e).gpioVal = s.gpioVal := rfl
@[simp] theorem raise_gpioDir (e : Err) : (s.raise e).gpioDir = s.gpioDir := rfl
@[simp] theorem raise_frameSync (e : Err) : (s.raise e).frameSync = s.frameSync := rfl
@[simp] theorem raise_streaming (e : Err) : (s.raise e).streaming = s.streaming := rfl
@[simp] theorem raise_faults (e : Err) : (s.raise e).faults = s.faults := rfl
@[simp] theorem raise_refused (e : Err) : (s.raise e).refused = s.refused := rfl
@[simp] theorem raise_agenda (e : Err) : (s.raise e).agenda = s.agenda := rfl
@[simp] theorem raise_counts (e : Err) : (s.raise e).counts = s.counts := rfl
@[simp] theorem raise_reads (e : Err) : (s.raise e).reads = s.reads := rfl
@[simp] theorem raise_draws (e : Err) : (s.raise e).draws = s.draws := rfl
@[simp] theorem raise_untilTick (e : Err) : (s.raise e).untilTick = s.untilTick := rfl
@[simp] theorem raise_hostSaw (e : Err) : (s.raise e).hostSaw = s.hostSaw := rfl
@[simp] theorem raise_hostPc (e : Err) : (s.raise e).hostPc = s.hostPc := rfl
@[simp] theorem raise_program (e : Err) : (s.raise e).program = s.program := rfl
@[simp] theorem raise_cancel (e : Err) : (s.raise e).cancel = s.cancel := rfl

/-! ### mark -/

@[simp] theorem mark_cfg (r : Fault) : (s.mark r).cfg = s.cfg := rfl
@[simp] theorem mark_seq (r : Fault) : (s.mark r).seq = s.seq := rfl
@[simp] theorem mark_curOp (r : Fault) : (s.mark r).curOp = s.curOp := rfl
@[simp] theorem mark_err (r : Fault) : (s.mark r).err = s.err := rfl
@[simp] theorem mark_startValid (r : Fault) : (s.mark r).startValid = s.startValid := rfl
@[simp] theorem mark_endValid (r : Fault) : (s.mark r).endValid = s.endValid := rfl
@[simp] theorem mark_lastOp (r : Fault) : (s.mark r).lastOp = s.lastOp := rfl
@[simp] theorem mark_filled (r : Fault) : (s.mark r).filled = s.filled := rfl
@[simp] theorem mark_startBit (r : Fault) : (s.mark r).startBit = s.startBit := rfl
@[simp] theorem mark_endBit (r : Fault) : (s.mark r).endBit = s.endBit := rfl
@[simp] theorem mark_t0 (r : Fault) : (s.mark r).t0 = s.t0 := rfl
@[simp] theorem mark_wake (r : Fault) : (s.mark r).wake = s.wake := rfl
@[simp] theorem mark_buf (r : Fault) : (s.mark r).buf = s.buf := rfl
@[simp] theorem mark_clk (r : Fault) : (s.mark r).clk = s.clk := rfl
@[simp] theorem mark_cmdlog (r : Fault) : (s.mark r).cmdlog = s.cmdlog := rfl
@[simp] theorem mark_gpioVal (r : Fault) : (s.mark r).gpioVal = s.gpioVal := rfl
@[simp] theorem mark_gpioDir (r : Fault) : (s.mark r).gpioDir = s.gpioDir := rfl
@[simp] theorem mark_frameSync (r : Fault) : (s.mark r).frameSync = s.frameSync := rfl
@[simp] theorem mark_streaming (r : Fault) : (s.mark r).streaming = s.streaming := rfl
@[simp] theorem mark_faults (r : Fault) : (s.mark r).faults = FaultSet.add r s.faults := rfl
@[simp] theorem mark_refused (r : Fault) : (s.mark r).refused = s.refused := rfl
@[simp] theorem mark_agenda (r : Fault) : (s.mark r).agenda = s.agenda := rfl
@[simp] theorem mark_counts (r : Fault) : (s.mark r).counts = s.counts := rfl
@[simp] theorem mark_reads (r : Fault) : (s.mark r).reads = s.reads := rfl
@[simp] theorem mark_draws (r : Fault) : (s.mark r).draws = s.draws := rfl
@[simp] theorem mark_untilTick (r : Fault) : (s.mark r).untilTick = s.untilTick := rfl
@[simp] theorem mark_hostSaw (r : Fault) : (s.mark r).hostSaw = s.hostSaw := rfl
@[simp] theorem mark_hostPc (r : Fault) : (s.mark r).hostPc = s.hostPc := rfl
@[simp] theorem mark_program (r : Fault) : (s.mark r).program = s.program := rfl
@[simp] theorem mark_cancel (r : Fault) : (s.mark r).cancel = s.cancel := rfl

/-! ### refuse -/

@[simp] theorem refuse_cfg : (s.refuse).cfg = s.cfg := rfl
@[simp] theorem refuse_seq : (s.refuse).seq = s.seq := rfl
@[simp] theorem refuse_curOp : (s.refuse).curOp = s.curOp := rfl
@[simp] theorem refuse_err : (s.refuse).err = s.err := rfl
@[simp] theorem refuse_startValid : (s.refuse).startValid = s.startValid := rfl
@[simp] theorem refuse_endValid : (s.refuse).endValid = s.endValid := rfl
@[simp] theorem refuse_lastOp : (s.refuse).lastOp = s.lastOp := rfl
@[simp] theorem refuse_filled : (s.refuse).filled = s.filled := rfl
@[simp] theorem refuse_startBit : (s.refuse).startBit = s.startBit := rfl
@[simp] theorem refuse_endBit : (s.refuse).endBit = s.endBit := rfl
@[simp] theorem refuse_t0 : (s.refuse).t0 = s.t0 := rfl
@[simp] theorem refuse_wake : (s.refuse).wake = s.wake := rfl
@[simp] theorem refuse_buf : (s.refuse).buf = s.buf := rfl
@[simp] theorem refuse_clk : (s.refuse).clk = s.clk := rfl
@[simp] theorem refuse_cmdlog : (s.refuse).cmdlog = s.cmdlog := rfl
@[simp] theorem refuse_gpioVal : (s.refuse).gpioVal = s.gpioVal := rfl
@[simp] theorem refuse_gpioDir : (s.refuse).gpioDir = s.gpioDir := rfl
@[simp] theorem refuse_frameSync : (s.refuse).frameSync = s.frameSync := rfl
@[simp] theorem refuse_streaming : (s.refuse).streaming = s.streaming := rfl
@[simp] theorem refuse_faults : (s.refuse).faults = s.faults := rfl
@[simp] theorem refuse_refused : (s.refuse).refused = true := rfl
@[simp] theorem refuse_agenda : (s.refuse).agenda = s.agenda := rfl
@[simp] theorem refuse_counts : (s.refuse).counts = s.counts := rfl
@[simp] theorem refuse_reads : (s.refuse).reads = s.reads := rfl
@[simp] theorem refuse_draws : (s.refuse).draws = s.draws := rfl
@[simp] theorem refuse_untilTick : (s.refuse).untilTick = s.untilTick := rfl
@[simp] theorem refuse_hostSaw : (s.refuse).hostSaw = s.hostSaw := rfl
@[simp] theorem refuse_hostPc : (s.refuse).hostPc = s.hostPc := rfl
@[simp] theorem refuse_program : (s.refuse).program = s.program := rfl
@[simp] theorem refuse_cancel : (s.refuse).cancel = s.cancel := rfl

/-! ### blockReset -/

@[simp] theorem blockReset_cfg : (s.blockReset).cfg = s.cfg := rfl
@[simp] theorem blockReset_seq : (s.blockReset).seq = .idle := rfl
@[simp] theorem blockReset_curOp : (s.blockReset).curOp = 0#8 := rfl
@[simp] theorem blockReset_err : (s.blockReset).err = .ok := rfl
@[simp] theorem blockReset_startValid : (s.blockReset).startValid = false := rfl
@[simp] theorem blockReset_endValid : (s.blockReset).endValid = false := rfl
@[simp] theorem blockReset_lastOp : (s.blockReset).lastOp = 0 := rfl
@[simp] theorem blockReset_filled : (s.blockReset).filled = 0 := rfl
@[simp] theorem blockReset_startBit : (s.blockReset).startBit = none := rfl
@[simp] theorem blockReset_endBit : (s.blockReset).endBit = none := rfl
@[simp] theorem blockReset_t0 : (s.blockReset).t0 = none := rfl
@[simp] theorem blockReset_wake : (s.blockReset).wake = none := rfl
@[simp] theorem blockReset_buf : (s.blockReset).buf = [] := rfl
@[simp] theorem blockReset_clk : (s.blockReset).clk = s.clk := rfl
@[simp] theorem blockReset_cmdlog : (s.blockReset).cmdlog = s.cmdlog := rfl
@[simp] theorem blockReset_gpioVal : (s.blockReset).gpioVal = if s.busy then none else s.gpioVal := rfl
@[simp] theorem blockReset_gpioDir : (s.blockReset).gpioDir = if s.busy then none else s.gpioDir := rfl
@[simp] theorem blockReset_frameSync : (s.blockReset).frameSync = if s.busy then .unknown else s.frameSync := rfl
@[simp] theorem blockReset_streaming : (s.blockReset).streaming = if s.busy then none else s.streaming := rfl
@[simp] theorem blockReset_faults : (s.blockReset).faults = {} := rfl
@[simp] theorem blockReset_refused : (s.blockReset).refused = false := rfl
@[simp] theorem blockReset_agenda : (s.blockReset).agenda = s.agenda := rfl
@[simp] theorem blockReset_counts : (s.blockReset).counts = s.counts := rfl
@[simp] theorem blockReset_reads : (s.blockReset).reads = s.reads := rfl
@[simp] theorem blockReset_draws : (s.blockReset).draws = s.draws := rfl
@[simp] theorem blockReset_untilTick : (s.blockReset).untilTick = s.untilTick := rfl
@[simp] theorem blockReset_hostSaw : (s.blockReset).hostSaw = s.hostSaw := rfl
@[simp] theorem blockReset_hostPc : (s.blockReset).hostPc = s.hostPc := rfl
@[simp] theorem blockReset_program : (s.blockReset).program = s.program := rfl
@[simp] theorem blockReset_cancel : (s.blockReset).cancel = s.cancel := rfl

end Sys2Proof.Machine
end

