-- ==== Sys2Proof/Laws/Ops.lean ====
section
/-! SUPPORT. One law per shared operation: what a scan finds, what a command write does, and the cases of a step. -/

namespace Sys2Proof.Machine

open Sys2Proof

/-- `hsb(b)` is the index of the highest set bit (R170). -/
theorem hsb_spec : ∀ b : Byte, b ≠ 0#8 → hsb b < 8 ∧ 2 ^ hsb b ≤ b.toNat ∧ b.toNat < 2 ^ (hsb b + 1) := by decide

/-- The start scan finds the first non-zero byte of its range (R169). -/
theorem scanUp_some {m : Memory} {k i j : Nat} :
    scanUp m k i = some j ↔ (i ≤ j ∧ j < i + k) ∧ Memory.read m j ≠ 0#8 ∧ ∀ l, i ≤ l → l < j → Memory.read m l = 0#8 := by
  induction k generalizing i with
  | zero =>
    simp only [scanUp, reduceCtorEq, false_iff]
    rintro ⟨⟨h1, h2⟩, -⟩
    omega
  | succ k ih =>
    simp only [scanUp]
    split
    · rename_i hz
      rw [ih]
      constructor
      · rintro ⟨⟨h1, h2⟩, h3, h4⟩
        refine ⟨⟨by omega, by omega⟩, h3, fun l hl hj => ?_⟩
        rcases Nat.lt_or_ge i l with h | h
        · exact h4 l h hj
        · rw [show l = i by omega]; exact hz
      · rintro ⟨⟨h1, h2⟩, h3, h4⟩
        have : i ≠ j := fun h => h3 (h ▸ hz)
        exact ⟨⟨by omega, by omega⟩, h3, fun l hl hj => h4 l (by omega) hj⟩
    · rename_i hz
      constructor
      · rintro h
        cases h
        exact ⟨⟨le_refl _, by omega⟩, hz, fun l h1 h2 => by omega⟩
      · rintro ⟨⟨h1, h2⟩, h3, h4⟩
        rcases Nat.lt_or_ge i j with h | h
        · exact absurd (h4 i (le_refl _) h) hz
        · rw [show j = i by omega]

/-- The start scan fails exactly on a range of zero bytes. -/
theorem scanUp_none {m : Memory} {k i : Nat} :
    scanUp m k i = none ↔ ∀ l, i ≤ l → l < i + k → Memory.read m l = 0#8 := by
  induction k generalizing i with
  | zero => simp [scanUp]; omega
  | succ k ih =>
    simp only [scanUp]
    split
    · rename_i hz
      rw [ih]
      constructor
      · intro h l h1 h2
        rcases Nat.lt_or_ge i l with h' | h'
        · exact h l h' (by omega)
        · rw [show l = i by omega]; exact hz
      · exact fun h l h1 h2 => h l (by omega) (by omega)
    · rename_i hz
      simp only [reduceCtorEq, false_iff]
      exact fun h => hz (h i (le_refl _) (by omega))

/-- The end scan finds the last non-zero byte above `lo` (R173). -/
theorem scanDown_some {m : Memory} {lo k j : Nat} :
    scanDown m lo k = some j ↔
      (lo < j ∧ j < k) ∧ Memory.read m j ≠ 0#8 ∧ ∀ l, j < l → l < k → Memory.read m l = 0#8 := by
  induction k with
  | zero => simp [scanDown]
  | succ k ih =>
    simp only [scanDown]
    split
    · rename_i hk
      simp only [reduceCtorEq, false_iff]
      rintro ⟨⟨h1, h2⟩, -⟩
      omega
    · split
      · rename_i hk hz
        rw [ih]
        constructor
        · rintro ⟨⟨h1, h2⟩, h3, h4⟩
          refine ⟨⟨h1, by omega⟩, h3, fun l hl hj => ?_⟩
          rcases Nat.lt_or_ge l k with h | h
          · exact h4 l hl h
          · rw [show l = k by omega]; exact hz
        · rintro ⟨⟨h1, h2⟩, h3, h4⟩
          have : j ≠ k := fun h => h3 (h ▸ hz)
          exact ⟨⟨h1, by omega⟩, h3, fun l hl hj => h4 l hl (by omega)⟩
      · rename_i hk hz
        constructor
        · rintro h
          cases h
          exact ⟨⟨by omega, by omega⟩, hz, fun l h1 h2 => by omega⟩
        · rintro ⟨⟨h1, h2⟩, h3, h4⟩
          rcases Nat.lt_or_ge j k with h | h
          · exact absurd (h4 k h (by omega)) hz
          · rw [show j = k by omega]

/-- The end scan fails exactly when only zero bytes stand above `lo`. -/
theorem scanDown_none {m : Memory} {lo k : Nat} :
    scanDown m lo k = none ↔ ∀ l, lo < l → l < k → Memory.read m l = 0#8 := by
  induction k with
  | zero => simp [scanDown]
  | succ k ih =>
    simp only [scanDown]
    split
    · simp only [true_iff]
      exact fun l h1 h2 => by omega
    · split
      · rename_i hk hz
        rw [ih]
        constructor
        · intro h l h1 h2
          rcases Nat.lt_or_ge l k with h' | h'
          · exact h l h1 h'
          · rw [show l = k by omega]; exact hz
        · exact fun h l h1 h2 => h l h1 (by omega)
      · rename_i hk hz
        simp only [reduceCtorEq, false_iff]
        exact fun h => hz (h k (by omega) (by omega))

/-- The frame of GPIO_SET reads back. -/
@[simp] theorem decodeFrame_gpioFrame (v d : Byte) : decodeFrame (gpioFrame v d) = .ok (.gpioSet v d) := rfl

/-- The two bytes of a length make the length again (R90). -/
@[simp] theorem lengthField_bytes (l : BitVec 16) : lengthField (lengthLow l) (lengthHigh l) = l := by
  show (l.extractLsb' 8 8 ++ l.extractLsb' 0 8 : BitVec (8 + 8)) = l
  rw [BitVec.extractLsb'_append_extractLsb'_eq_extractLsb' (by rfl)]
  simp

/-- The frame of CAPTURE reads back. -/
@[simp] theorem decodeFrame_captureFrame (l : BitVec 16) : decodeFrame (captureFrame l) = .ok (.capture l) := by
  simp [decodeFrame, captureFrame, Config.opGpioSet, Config.opCapture]

/-- The sequencer's fields, the clock, the buffer and the host's fields are not the command port's. -/
theorem cmdWrite_cases (f : Frame) (s : State) :
    (s.nextCount ≠ 3 ∧
      s.cmdWrite f = { s.dropCount with
        cmdlog := s.cmdlog ++ [(f, s.nextCount)], frameSync := .unknown, gpioVal := none, gpioDir := none,
        streaming := none }) ∨
    (s.nextCount = 3 ∧ s.frameSync = .unknown ∧
      s.cmdWrite f = { s.dropCount with
        cmdlog := s.cmdlog ++ [(f, 3)], gpioVal := none, gpioDir := none, streaming := none }) ∨
    (s.nextCount = 3 ∧ s.frameSync = .aligned ∧ ∃ v d, decodeFrame f = .ok (.gpioSet v d) ∧
      s.cmdWrite f = { s.dropCount with
        cmdlog := s.cmdlog ++ [(f, 3)], gpioVal := some v, gpioDir := some d }) ∨
    (s.nextCount = 3 ∧ s.frameSync = .aligned ∧ ∃ l, decodeFrame f = .ok (.capture l) ∧
      s.cmdWrite f = { s.dropCount with
        cmdlog := s.cmdlog ++ [(f, 3)], streaming := some (l.toNat + 1) }) ∨
    (s.nextCount = 3 ∧ s.frameSync = .aligned ∧ (∃ e, decodeFrame f = .error e) ∧
      s.cmdWrite f = { s.dropCount with
        cmdlog := s.cmdlog ++ [(f, 3)], frameSync := .unknown, gpioVal := none, gpioDir := none,
        streaming := none }) := by
  by_cases hn : s.nextCount = 3
  · cases hs : s.frameSync with
    | unknown => simp [State.cmdWrite, State.adapter, State.lostEffect, hn, hs]
    | aligned =>
      simp only [State.cmdWrite, State.adapter, hn, if_pos, dropCount_frameSync, hs]
      by_cases h0 : f.b0 = Config.opGpioSet
      · simp [decodeFrame, h0]
      · by_cases h1 : f.b0 = Config.opCapture
        · have h2 : ¬ Config.opCapture = Config.opGpioSet := by decide
          simp [decodeFrame, h1, h2]
        · simp [decodeFrame, h0, h1, State.lostSync]
  · simp [State.cmdWrite, State.adapter, State.lostSync, hn]

/-- Every meaning answers a next state. -/
theorem exec_next (i : Instr) (s : State) : ∃ t, exec i s = .next t := by
  cases i <;> exact ⟨_, rfl⟩

/-- A step takes the agenda's first turn, or the free turn. -/
theorem step_cases (s : State) :
    (∃ t rest, s.agenda = t :: rest ∧ step s = takeTurn t { s with agenda := rest }) ∨
    (s.agenda = [] ∧ step s = freeTurn s) := by
  cases h : s.agenda with
  | nil => simp [step, h]
  | cons t rest => simp [step, h]

/-- A scheduled turn is taken. -/
theorem step_turn {s : State} {t : Turn} {rest : List Turn} (h : s.agenda = t :: rest) :
    step s = takeTurn t { s with agenda := rest } := by
  simp [step, h]

/-- A scheduled clock advance (R39). -/
theorem step_clock {s : State} {d : Nat} {rest : List Turn} (h : s.agenda = .clock d :: rest) :
    step s = .next { s with agenda := rest, clk := s.clk + d } :=
  step_turn h

/-- A scheduled micro-step of the operation in progress (R24). -/
theorem step_block {s t : State} {o : HostOp} {rest : List Turn} (ho : Seq.op s.seq = some o)
    (h : s.agenda = .block :: rest) (he : exec o.instr { s with agenda := rest } = .next t) : step s = .next t := by
  simp [step, h, takeTurn, blockStep, Seq.instr, ho, he]

/-- With nothing scheduled and a move granted, an operation in progress that is not held makes its micro-step (R24). -/
theorem step_free_block {s t : State} {o : HostOp} (ho : Seq.op s.seq = some o) (h : s.agenda = [])
    (hg : s.untilTick ≠ 0) (hh : ¬(s.seq = .tSleep ∧ s.clk < s.wakeTime)) (he : exec o.instr s.spend = .next t) :
    step s = .next t := by
  have hb : s.busy = true := by
    simp only [State.busy, decide_eq_true_eq]
    intro hi
    simp [hi, Seq.op] at ho
  simp [step, h, freeTurn, hg, State.blockEnabled, hb, hh, blockStep, Seq.instr, ho, he]

/-- With nothing scheduled and no move granted, the clock advances (R207). -/
theorem step_free_tick {s : State} (h : s.agenda = []) (hg : s.untilTick = 0) : step s = .next s.tickFree := by
  simp [step, h, freeTurn, hg]

/-- No steps. -/
theorem run_zero (s : State) : Host.Core.run Sys2Proof.core 0 s = .next s := rfl

/-- One step, then the others. -/
theorem run_succ {n : Nat} {s t : State} (h : step s = .next t) :
    Host.Core.run Sys2Proof.core (n + 1) s = Host.Core.run Sys2Proof.core n t := by
  have h' : Sys2Proof.core.step s = .next t := h
  simp only [Host.Core.run, h']

/-- A run in two parts. -/
theorem run_add {n m : Nat} {s t : State} (h : Host.Core.run Sys2Proof.core n s = .next t) :
    Host.Core.run Sys2Proof.core (n + m) s = Host.Core.run Sys2Proof.core m t := by
  induction n generalizing s with
  | zero =>
    cases h
    rw [Nat.zero_add]
  | succ n ih =>
    rw [Nat.add_right_comm]
    simp only [Host.Core.run] at h ⊢
    split at h
    · exact ih h
    · cases h
    · cases h

end Sys2Proof.Machine
end

