-- ==== Sys2Proof/Laws/Step.lean ====
section
/-! SUPPORT. What a step can do, said once: the inversion of `step`, from which the whole-machine rules follow. -/

namespace Sys2Proof.Machine

open Sys2Proof

/-- A host op code that decodes is the code of an operation (R96). -/
theorem decodeHostOp_ok {b : Byte} {i : Instr} (h : decodeHostOp b = .ok i) :
    ∃ o : HostOp, i = o.instr ∧ b = o.code := by
  unfold decodeHostOp at h
  split_ifs at h <;> cases h
  · exact ⟨.trigger, rfl, by assumption⟩
  · exact ⟨.capinit, rfl, by assumption⟩
  · exact ⟨.accumulate, rfl, by assumption⟩
  · exact ⟨.locate, rfl, by assumption⟩

/-- The code of an operation decodes to it (R96). -/
@[simp] theorem decodeHostOp_code (o : HostOp) : decodeHostOp o.code = .ok o.instr := by cases o <;> rfl

/-- A frame that decodes is the frame of its instruction, whose meaning is the command write of it. -/
theorem exec_of_decodeFrame {f : Frame} {i : Instr} (h : decodeFrame f = .ok i) (s : State) :
    exec i s = .next (s.cmdWrite f) := by
  obtain ⟨b0, b1, b2⟩ := f
  unfold decodeFrame at h
  split_ifs at h with h0 h1 <;> cases h
  · rw [show Frame.mk b0 b1 b2 = gpioFrame b1 b2 by simp [gpioFrame, ← h0]]
    rfl
  · have hl : lengthLow (lengthField b1 b2) = b1 := BitVec.extractLsb'_append_eq_right
    have hh : lengthHigh (lengthField b1 b2) = b2 := BitVec.extractLsb'_append_eq_left
    have hf : Frame.mk b0 b1 b2 = captureFrame (lengthField b1 b2) := by simp [captureFrame, ← h1, hl, hh]
    exact congrArg (fun f => Host.Outcome.next (s.cmdWrite f)) hf.symm

/-- A move's place in the schedule: it is the agenda's first turn `u`, or, with nothing scheduled (`none`), a free move.
`rest` is the agenda after it, `g` how many free moves are left before the clock's next free advance (R207). -/
def Moved (s : State) (u : Option Turn) (rest : List Turn) (g : Nat) : Prop :=
  match u with
  | some u => s.agenda = u :: rest ∧ g = s.untilTick
  | none => s.agenda = [] ∧ rest = [] ∧ s.untilTick = g + 1

/-- The state after its schedule has moved on. -/
abbrev moved (s : State) (rest : List Turn) (g : Nat) : State := { s with agenda := rest, untilTick := g }

/-- A turn that moved only the host: its reply, its program and its cancellation input. -/
abbrev hostFields (s : State) (rest : List Turn) (g : Nat) (saw : Option HostReply) (pc : HostPc)
    (lines : List HostLine) (c : Bool) : State :=
  { s with agenda := rest, untilTick := g, hostSaw := saw, hostPc := pc, program := lines, cancel := c }

/-- What one step can do. -/
inductive StepCase (s t : State) : Prop
  /-- The clock moved by a scheduled amount. -/
  | clock (d : Nat) (rest : List Turn) (hm : s.agenda = .clock d :: rest)
      (ht : t = { s with agenda := rest, clk := s.clk + d })
  /-- The clock moved by a free positive amount: the granted moves are used up, or nobody else can move. -/
  | tick (d g : Nat) (hm : s.agenda = [])
      (he : s.untilTick = 0 ∨ (s.blockEnabled = false ∧ s.hostEnabled = false))
      (ht : t = { s with clk := s.clk + (d + 1), untilTick := g + 1, draws := s.draws + 1 })
  /-- The block was reset. -/
  | reset (rest : List Turn) (hm : s.agenda = .reset :: rest) (ht : t = State.blockReset { s with agenda := rest })
  /-- Only the host's fields moved, or nothing did; a free move of the sequencer is never of this kind. -/
  | host (u : Option Turn) (rest : List Turn) (g : Nat) (saw : Option HostReply) (pc : HostPc) (lines : List HostLine)
      (c : Bool) (hm : Moved s u rest g) (hu : u ≠ some .reset) (hb : u = none → s.seq = .idle)
      (ht : t = hostFields s rest g saw pc lines c)
  /-- A fault was marked, and nothing else happened to the block. -/
  | mark (r : Fault) (u : Turn) (rest : List Turn) (pc : HostPc) (lines : List HostLine)
      (hm : s.agenda = u :: rest) (hu : u ≠ .reset)
      (ht : t = State.mark r { s with agenda := rest, hostPc := pc, program := lines })
  /-- A refusal was marked. -/
  | refuse (u : Turn) (rest : List Turn) (hm : s.agenda = u :: rest) (hu : u ≠ .reset)
      (ht : t = State.refuse { s with agenda := rest })
  /-- An operation was issued, by a presented op code or by the host's program. -/
  | issue (o : HostOp) (u : Option Turn) (rest : List Turn) (g : Nat) (pc : HostPc) (lines : List HostLine)
      (hm : Moved s u rest g) (hu : u = none ∨ u = some .host ∨ u = some (.present o.code)) (hi : s.seq = .idle)
      (ht : t = State.issue o { s with agenda := rest, untilTick := g, hostPc := pc, program := lines })
  /-- The operation in progress made a micro-step. -/
  | micro (o : HostOp) (u : Option Turn) (rest : List Turn) (g : Nat) (hm : Moved s u rest g)
      (hu : u = some .block ∨ (u = none ∧ s.blockEnabled = true)) (ho : Seq.op s.seq = some o)
      (ht : exec o.instr (moved s rest g) = .next t)
  /-- Another agent wrote a frame, which it may only while no host program runs (R80). -/
  | frame (f : Frame) (rest : List Turn) (hm : s.agenda = .frame f :: rest) (hr : s.hostRuns = false)
      (ht : t = State.cmdWrite f { s with agenda := rest })

/-- The step of an operation from IDLE is its issue (R103). -/
theorem exec_idle {s : State} (o : HostOp) (h : s.seq = .idle) : exec o.instr s = .next (s.issue o) := by
  cases o <;>
    simp [HostOp.instr, exec, execTrigger, execCapinit, execAccumulate, execLocate, triggerStep, capinitStep,
      accumulateStep, locateStep, h]

/-- The host presents an op code to an idle block: an issue, or, for a code of no operation, a refusal. -/
theorem presentOp_idle {s : State} {op : Byte} (h : s.seq = .idle) :
    (∃ o : HostOp, op = o.code ∧ presentOp op s = .next (s.issue o)) ∨
    ((∀ o : HostOp, op ≠ o.code) ∧ presentOp op s = .next s.refuse) := by
  unfold presentOp
  rw [if_neg (by simp [State.busy, h])]
  split
  · rename_i i hd
    obtain ⟨o, rfl, rfl⟩ := decodeHostOp_ok hd
    exact .inl ⟨o, rfl, exec_idle o h⟩
  · rename_i e hd
    exact .inr ⟨fun o ho => by simp [ho] at hd, rfl⟩

/-- The sequencer's micro-step, or nothing in IDLE. -/
theorem blockStep_cases {s t : State} {u : Option Turn} {rest : List Turn} {g : Nat} (hm : Moved s u rest g)
    (hu : u = some .block ∨ (u = none ∧ s.blockEnabled = true)) (h : blockStep (moved s rest g) = .next t) :
    StepCase s t := by
  unfold blockStep Seq.instr at h
  cases ho : Seq.op s.seq with
  | none =>
    simp only [ho, Option.map_none] at h
    cases h
    have hi : s.seq = .idle := by cases hs : s.seq <;> simp [hs, Seq.op] at ho ⊢
    refine .host u rest g s.hostSaw s.hostPc s.program s.cancel hm ?_ (fun _ => hi) rfl
    rcases hu with rfl | ⟨rfl, -⟩ <;> simp
  | some o =>
    simp only [ho, Option.map_some] at h
    exact .micro o u rest g hm hu ho h

/-- One move of the host's program. -/
theorem hostMove_cases {s t : State} {u : Option Turn} {rest : List Turn} {g : Nat} (hm : Moved s u rest g)
    (hu : u = some .host ∨ (u = none ∧ s.seq = .idle)) (h : hostMove (moved s rest g) = .next t) : StepCase s t := by
  have hr : u ≠ some .reset := by rcases hu with rfl | ⟨rfl, -⟩ <;> simp
  have hn : u = none → s.seq = .idle := by rcases hu with rfl | ⟨rfl, hi⟩ <;> simp [*]
  have hp : u = none ∨ u = some .host := by rcases hu with rfl | ⟨rfl, -⟩ <;> simp
  have quiet : ∀ saw pc lines c, t = hostFields s rest g saw pc lines c → StepCase s t := fun saw pc lines c ht =>
    .host u rest g saw pc lines c hm hr hn ht
  have present : ∀ (o : HostOp) (pc : HostPc) (lines : List HostLine), s.seq = .idle →
      presentOp o.code { moved s rest g with hostPc := pc, program := lines } = .next t → StepCase s t := by
    intro o pc lines hi ht
    rcases presentOp_idle (s := { moved s rest g with hostPc := pc, program := lines }) (op := o.code) hi with
      ⟨o', ho, hx⟩ | ⟨hx, -⟩
    · rw [hx] at ht
      cases ht
      exact .issue o' u rest g pc lines hm (hp.imp_right .inl) hi rfl
    · exact absurd rfl (hx o)
  unfold hostMove at h
  split at h
  · cases h
    exact quiet s.hostSaw s.hostPc s.program s.cancel rfl
  · rename_i hb
    have hi : s.seq = .idle := by simpa [State.busy] using hb
    split at h
    · split at h
      · cases h
        exact quiet s.hostSaw s.hostPc s.program s.cancel rfl
      · exact present _ _ _ hi h
      · cases h
        exact quiet s.hostSaw _ _ s.cancel rfl
      · cases h
        exact quiet s.hostSaw _ _ s.cancel rfl
    · cases h
      exact quiet s.hostSaw _ _ s.cancel rfl
    · exact present _ _ s.program hi h
    · split at h
      · split at h <;> cases h <;> exact quiet s.hostSaw _ _ s.cancel rfl
      · cases h
        exact quiet s.hostSaw _ _ s.cancel rfl
    · split at h <;> cases h <;> exact quiet s.hostSaw _ _ s.cancel rfl
    · cases h
      exact quiet s.hostSaw _ _ s.cancel rfl

/-- What a step can do (R20). -/
theorem step_inversion {s t : State} (h : step s = .next t) : StepCase s t := by
  rcases step_cases s with ⟨u, rest, ha, hs⟩ | ⟨ha, hs⟩ <;> rw [hs] at h
  · have hm : Moved s (some u) rest s.untilTick := ⟨ha, rfl⟩
    cases u with
    | clock d =>
      cases h
      exact .clock d rest ha rfl
    | block => exact blockStep_cases hm (.inl rfl) h
    | present op =>
      by_cases hi : s.seq = .idle
      · rcases presentOp_idle (s := { s with agenda := rest }) (op := op) hi with ⟨o, rfl, hx⟩ | ⟨-, hx⟩ <;>
          rw [show takeTurn (.present _) { s with agenda := rest } = _ from hx] at h <;> cases h
        · exact .issue o _ rest _ s.hostPc s.program hm (.inr (.inr rfl)) hi rfl
        · exact .refuse _ rest ha (by simp) rfl
      · simp only [takeTurn, presentOp] at h
        rw [if_pos (by simp [State.busy, hi])] at h
        cases h
        exact .mark .busy _ rest s.hostPc s.program ha (by simp) rfl
    | readReg r =>
      simp only [takeTurn, readRegister, Host.Outcome.next.injEq] at h
      split at h <;> subst h
      · exact .host _ rest _ _ s.hostPc s.program s.cancel hm (by simp) (by simp) rfl
      · exact .refuse _ rest ha (by simp) rfl
    | readBuf i =>
      simp only [takeTurn, readBuffer, Host.Outcome.next.injEq] at h
      split at h
      · subst h
        exact .mark .hostProtocol _ rest s.hostPc s.program ha (by simp) rfl
      · split at h <;> subst h
        · exact .mark .index _ rest s.hostPc s.program ha (by simp) rfl
        · exact .host _ rest _ _ s.hostPc s.program s.cancel hm (by simp) (by simp) rfl
    | reset =>
      cases h
      exact .reset rest ha rfl
    | cancel c =>
      cases h
      exact .host _ rest _ s.hostSaw s.hostPc s.program c hm (by simp) (by simp) rfl
    | start lines =>
      cases h
      exact .host _ rest _ s.hostSaw .ready lines s.cancel hm (by simp) (by simp) rfl
    | host => exact hostMove_cases hm (.inl rfl) h
    | frame f =>
      simp only [takeTurn, frameTurn] at h
      split at h
      · cases h
        exact .host _ rest _ s.hostSaw s.hostPc s.program s.cancel hm (by simp) (by simp) rfl
      · rename_i hr
        have hr : s.hostRuns = false := Bool.eq_false_of_not_eq_true hr
        split at h
        · rename_i i hd
          rw [exec_of_decodeFrame hd] at h
          cases h
          exact .frame f rest ha hr rfl
        · cases h
          exact .frame f rest ha hr rfl
  · unfold freeTurn at h
    split at h
    · rename_i hz
      cases h
      exact .tick _ _ ha (.inl hz) rfl
    · rename_i hz
      have hm : Moved s none [] (s.untilTick - 1) := ⟨ha, rfl, by omega⟩
      have hsp : s.spend = moved s [] (s.untilTick - 1) := by rw [State.spend, ← ha]
      rw [hsp] at h
      split at h
      · rename_i hb
        exact blockStep_cases hm (.inr ⟨rfl, hb⟩) h
      · split at h
        · rename_i hh
          refine hostMove_cases hm (.inr ⟨rfl, ?_⟩) h
          simp only [State.hostEnabled, State.busy, Bool.and_eq_true, Bool.not_eq_true', decide_eq_false_iff_not,
            not_not] at hh
          exact hh.1
        · rename_i hb hh
          cases h
          exact .tick _ _ ha (.inr ⟨by simpa using hb, by simpa using hh⟩) rfl

end Sys2Proof.Machine
end

