-- ==== Sys2Proof/Laws/Meanings.lean ====
section
/-! SUPPORT. What the meaning of an operation can do at its own micro-states, said once per operation: the cases that the
whole-machine rules cite. -/

namespace Sys2Proof.Machine

open Sys2Proof

/-- TRIGGER in progress (R113 to R117). -/
theorem execTrigger_cases {s t : State} (h : exec .trigger s = .next t) (hn : Seq.op s.seq = some .trigger) :
    (s.seq = .tHigh ∧ s.nextCount = 3 ∧
      t = { s.cmdWrite (frameHigh s.cfg) with wake := some (s.clk + 10000), seq := .tSleep }) ∨
    (s.seq = .tHigh ∧ s.nextCount ≠ 3 ∧ t = (s.cmdWrite (frameHigh s.cfg)).raise .transport) ∨
    (s.seq = .tSleep ∧ s.clk < s.wakeTime ∧ t = s) ∨
    (s.seq = .tSleep ∧ s.wakeTime ≤ s.clk ∧ t = { s with seq := .tLow }) ∨
    (s.seq = .tLow ∧ s.nextCount = 3 ∧ t = (s.cmdWrite (frameLow s.cfg)).complete) ∨
    (s.seq = .tLow ∧ s.nextCount ≠ 3 ∧ t = (s.cmdWrite (frameLow s.cfg)).raise .transport) := by
  simp only [exec, execTrigger, Host.Outcome.next.injEq] at h
  subst h
  cases hs : s.seq <;> simp only [hs, Seq.op, reduceCtorEq, Option.some.injEq] at hn
  · by_cases hc : s.nextCount = 3 <;> simp [triggerStep, hs, tHighStep, hc, Config.pulseNs]
  · by_cases hc : s.clk < s.wakeTime
    · simp [triggerStep, hs, tSleepStep, hc]
    · have := Nat.not_lt.1 hc
      simp [triggerStep, hs, tSleepStep, hc, this]
  · by_cases hc : s.nextCount = 3 <;> simp [triggerStep, hs, tLowStep, hc]

/-- CAPINIT in progress (R133). -/
theorem execCapinit_cases {s t : State} (h : exec .capinit s = .next t) (hn : Seq.op s.seq = some .capinit) :
    s.seq = .cWrite ∧
    ((s.nextCount = 3 ∧ t = (s.cmdWrite (frameCap s.cfg)).complete) ∨
      (s.nextCount ≠ 3 ∧ t = (s.cmdWrite (frameCap s.cfg)).raise .transport)) := by
  simp only [exec, execCapinit, Host.Outcome.next.injEq] at h
  subst h
  cases hs : s.seq <;> simp only [hs, Seq.op, reduceCtorEq, Option.some.injEq] at hn
  by_cases hc : s.nextCount = 3 <;> simp [capinitStep, hs, cWriteStep, hc]

/-- ACCUMULATE in progress (R143 to R146). -/
theorem execAccumulate_cases {s t : State} (h : exec .accumulate s = .next t) (hn : Seq.op s.seq = some .accumulate) :
    (s.seq = .aInit ∧ t = { s with buf := [], filled := 0, t0 := some s.clk, seq := .aRead }) ∨
    (s.seq = .aRead ∧ s.cfg.capacity - s.filled < s.nextRead.length ∧ t = s.dropRead.mark .sourceOverrun) ∨
    (s.seq = .aRead ∧ s.nextRead.length ≤ s.cfg.capacity - s.filled ∧
      t = { s.dropRead with
        buf := Memory.writeBytes s.buf s.filled s.nextRead, filled := s.filled + s.nextRead.length, seq := .aCheck }) ∨
    (s.seq = .aCheck ∧ s.filled = s.cfg.capacity ∧ t = s.complete) ∨
    (s.seq = .aCheck ∧ s.filled ≠ s.cfg.capacity ∧ Config.deadlineNs < s.clk - s.t0Time ∧ t = s.raise .timeout) ∨
    (s.seq = .aCheck ∧ s.filled ≠ s.cfg.capacity ∧ s.clk - s.t0Time ≤ Config.deadlineNs ∧
      t = { s with seq := .aRead }) := by
  simp only [exec, execAccumulate, Host.Outcome.next.injEq] at h
  subst h
  cases hs : s.seq <;> simp only [hs, Seq.op, reduceCtorEq, Option.some.injEq] at hn
  · simp [accumulateStep, hs, aInitStep, Memory.zeroed]
  · by_cases hc : s.cfg.capacity - s.filled < s.nextRead.length
    · simp only [accumulateStep, hs, aReadStep, if_pos hc]
      simp [hc]
    · simp only [accumulateStep, hs, aReadStep, if_neg hc]
      simp [hc, Nat.not_lt.1 hc]
  · by_cases hc : s.filled = s.cfg.capacity
    · simp [accumulateStep, hs, aCheckStep, hc]
    · by_cases hd : Config.deadlineNs < s.clk - s.t0Time
      · simp only [accumulateStep, hs, aCheckStep, if_neg hc, if_pos hd]
        simp [hc, hd]
      · simp only [accumulateStep, hs, aCheckStep, if_neg hc, if_neg hd]
        simp [hc, hd, Nat.not_lt.1 hd]

/-- LOCATE in progress (R178): where it reports an edge, the edge lies in the byte it was found in (R183). -/
theorem execLocate_cases {s t : State} (h : exec .locate s = .next t) (hn : Seq.op s.seq = some .locate) :
    s.seq = .lScan ∧
    ((s.filled ≠ s.cfg.capacity ∧ t = s.mark .partialDecode) ∨
      (s.filled = s.cfg.capacity ∧ t = noStart s) ∨
      (s.filled = s.cfg.capacity ∧ ∃ i, i < s.cfg.capacity ∧ bitIndex s.buf i ≠ 0 ∧ bitIndex s.buf i < 8 * i + 8 ∧
        t = noEnd (bitIndex s.buf i) s) ∨
      (s.filled = s.cfg.capacity ∧ ∃ i j, i < j ∧ j < s.cfg.capacity ∧ bitIndex s.buf i ≠ 0 ∧
        bitIndex s.buf i < 8 * i + 8 ∧ bitIndex s.buf j < 8 * j + 8 ∧
        t = found (bitIndex s.buf i) (bitIndex s.buf j) s)) := by
  simp only [exec, execLocate, Host.Outcome.next.injEq] at h
  subst h
  cases hs : s.seq <;> simp only [hs, Seq.op, reduceCtorEq, Option.some.injEq] at hn
  refine ⟨rfl, ?_⟩
  by_cases hf : s.filled = s.cfg.capacity
  · simp only [locateStep, hs, lScanStep, if_pos hf]
    simp only [hf, ne_eq, not_true, false_and, true_and, false_or]
    unfold scanStep
    cases hu : scanUp s.buf s.cfg.capacity 0 with
    | none => exact .inl rfl
    | some i =>
      obtain ⟨⟨-, h1⟩, h2, -⟩ := scanUp_some.1 hu
      have h3 := (hsb_spec _ h2).1
      by_cases hz : bitIndex s.buf i = 0
      · simp only [hz, if_true]
        exact .inl trivial
      · simp only [hz, if_false]
        cases hd : scanDown s.buf i s.cfg.capacity with
        | none => exact .inr (.inl ⟨i, by omega, hz, by simp only [bitIndex]; omega, rfl⟩)
        | some j =>
          obtain ⟨⟨h4, h5⟩, h6, -⟩ := scanDown_some.1 hd
          have h7 := (hsb_spec _ h6).1
          exact .inr (.inr ⟨i, j, h4, h5, hz, by simp only [bitIndex]; omega, by simp only [bitIndex]; omega, rfl⟩)
  · simp only [locateStep, hs, lScanStep, if_neg hf]
    simp [hf]

/-- A micro-step moves neither the clock nor the schedule (R20, R39). -/
theorem exec_schedule {o : HostOp} {s t : State} (ho : Seq.op s.seq = some o) (h : exec o.instr s = .next t) :
    t.clk = s.clk ∧ t.agenda = s.agenda ∧ t.untilTick = s.untilTick := by
  cases o with
  | trigger =>
    rcases execTrigger_cases h ho with ⟨-, -, rfl⟩ | ⟨-, -, rfl⟩ | ⟨-, -, rfl⟩ | ⟨-, -, rfl⟩ | ⟨-, -, rfl⟩ | ⟨-, -, rfl⟩ <;>
      simp
  | capinit => rcases execCapinit_cases h ho with ⟨-, ⟨-, rfl⟩ | ⟨-, rfl⟩⟩ <;> simp
  | accumulate =>
    rcases execAccumulate_cases h ho with
      ⟨-, rfl⟩ | ⟨-, -, rfl⟩ | ⟨-, -, rfl⟩ | ⟨-, -, rfl⟩ | ⟨-, -, -, rfl⟩ | ⟨-, -, -, rfl⟩ <;> simp
  | locate =>
    rcases (execLocate_cases h ho).2 with ⟨-, rfl⟩ | ⟨-, rfl⟩ | ⟨-, i, -, -, -, rfl⟩ | ⟨-, i, j, -, -, -, -, -, rfl⟩ <;>
      exact ⟨rfl, rfl, rfl⟩

/-- A micro-step is the sequencer's move. -/
theorem micro_sequencerMoves {s : State} {u : Option Turn} {rest : List Turn} {g : Nat} (hm : Moved s u rest g)
    (hu : u = some .block ∨ (u = none ∧ s.blockEnabled = true)) : s.sequencerMoves := by
  rcases hu with rfl | ⟨rfl, hb⟩
  · exact .inl (by simp [hm.1])
  · exact .inr ⟨hm.1, by have := hm.2.2; omega, hb⟩

/-- A move uses up a turn of the agenda or a granted move. -/
theorem moved_shorter {s : State} {u : Option Turn} {rest : List Turn} {g : Nat} (h : Moved s u rest g) :
    rest.length + g < s.agenda.length + s.untilTick := by
  cases u with
  | none =>
    obtain ⟨ha, hr, hg⟩ := h
    simp only [ha, hr, List.length_nil]
    omega
  | some u =>
    obtain ⟨ha, hg⟩ := h
    simp [ha, hg]

/-- The clock never goes back, and a step that does not advance it uses up a turn or a granted move: the measure behind
R207. -/
theorem step_advances {s t : State} (h : step s = .next t) :
    s.clk ≤ t.clk ∧ (s.clk < t.clk ∨ t.agenda.length + t.untilTick < s.agenda.length + s.untilTick) := by
  cases step_inversion h with
  | clock d rest hm ht =>
    subst ht
    exact ⟨Nat.le_add_right _ _, .inr (by simp [hm])⟩
  | tick d g hm he ht =>
    subst ht
    exact ⟨Nat.le_add_right _ _, .inl (by dsimp only; omega)⟩
  | reset rest hm ht =>
    subst ht
    exact ⟨le_refl _, .inr (by simp [hm])⟩
  | host u rest g saw pc lines c hm hu hb ht =>
    subst ht
    exact ⟨le_refl _, .inr (moved_shorter hm)⟩
  | mark r u rest pc lines hm hu ht =>
    subst ht
    exact ⟨le_refl _, .inr (by simp [hm])⟩
  | refuse u rest hm hu ht =>
    subst ht
    exact ⟨le_refl _, .inr (by simp [hm])⟩
  | issue o u rest g pc lines hm hu hi ht =>
    subst ht
    exact ⟨le_refl _, .inr (moved_shorter hm)⟩
  | micro o u rest g hm hu ho ht =>
    obtain ⟨hc, ha, hg⟩ := exec_schedule (s := moved s rest g) ho ht
    rw [hc, ha, hg]
    exact ⟨le_refl _, .inr (moved_shorter hm)⟩
  | frame f rest hm hr ht =>
    subst ht
    exact ⟨by simp, .inr (by simp [hm])⟩

end Sys2Proof.Machine
end

