-- ==== Sys2Proof/Laws/PerInstr.lean ====
section
/-! SUPPORT. Statements about every instruction as syntax, with one lemma per constructor. -/

namespace Sys2Proof.Laws.EncodedLength

/-- A host operation is always one byte, a wire frame always three (spec/30_encoding.md R99). -/
def Statement (i : Sys2Proof.Instr) : Prop :=
  (Sys2Proof.encode i).length = (match i.level with | .host => 1 | .wire => 3)

theorem trigger : Statement .trigger := rfl

theorem capinit : Statement .capinit := rfl

theorem accumulate : Statement .accumulate := rfl

theorem locate : Statement .locate := rfl

theorem gpioSet (value dir : Sys2Proof.Byte) : Statement (.gpioSet value dir) := rfl

theorem capture (lenM1 : BitVec 16) : Statement (.capture lenM1) := rfl

end Sys2Proof.Laws.EncodedLength
end

