-- ==== Sys2Proof/Laws/Results.lean ====
section
/-! SUPPORT. The results of an earlier cycle, and the cancellation input, pass through the operations that do not read
them (R232, R204). -/

namespace Sys2Proof.Machine

open Sys2Proof

section Results

variable (m : Memory) (f : Nat) (x y : Option Nat) (a b : Bool) (s : State)

@[simp] theorem withResults_seq : (s.withResults m f x y a b).seq = s.seq := rfl
@[simp] theorem withResults_cfg : (s.withResults m f x y a b).cfg = s.cfg := rfl
@[simp] theorem withResults_clk : (s.withResults m f x y a b).clk = s.clk := rfl
@[simp] theorem withResults_counts : (s.withResults m f x y a b).counts = s.counts := rfl
@[simp] theorem withResults_frameSync : (s.withResults m f x y a b).frameSync = s.frameSync := rfl
@[simp] theorem withResults_nextCount : (s.withResults m f x y a b).nextCount = s.nextCount := rfl
@[simp] theorem withResults_wakeTime : (s.withResults m f x y a b).wakeTime = s.wakeTime := rfl

/-- Another window is other results with the same BUF and FILLED. -/
theorem withWindow_eq : s.withWindow x y a b = s.withResults s.buf s.filled x y a b := rfl

theorem dropCount_withResults : (s.withResults m f x y a b).dropCount = s.dropCount.withResults m f x y a b := by
  unfold State.dropCount
  rw [withResults_counts]
  cases s.counts <;> rfl

theorem adapter_withResults (g : Frame) (n : Int) :
    State.adapter g n (s.withResults m f x y a b) = (State.adapter g n s).withResults m f x y a b := by
  unfold State.adapter
  rw [withResults_frameSync]
  split
  · cases s.frameSync
    · rcases decodeFrame g with e | i
      · rfl
      · cases i <;> rfl
    · rfl
  · rfl

/-- A command write neither reads nor writes the results (R119, R134). -/
theorem cmdWrite_withResults (g : Frame) :
    (s.withResults m f x y a b).cmdWrite g = (s.cmdWrite g).withResults m f x y a b := by
  unfold State.cmdWrite
  rw [withResults_nextCount, dropCount_withResults, ← adapter_withResults]
  rfl

end Results

section Cancel

variable (c : Bool) (s : State)

/-- The state with another level of the cancellation input. -/
def State.withCancel : State := { s with cancel := c }

@[simp] theorem withCancel_seq : (s.withCancel c).seq = s.seq := rfl
@[simp] theorem withCancel_cfg : (s.withCancel c).cfg = s.cfg := rfl
@[simp] theorem withCancel_clk : (s.withCancel c).clk = s.clk := rfl
@[simp] theorem withCancel_counts : (s.withCancel c).counts = s.counts := rfl
@[simp] theorem withCancel_reads : (s.withCancel c).reads = s.reads := rfl
@[simp] theorem withCancel_frameSync : (s.withCancel c).frameSync = s.frameSync := rfl
@[simp] theorem withCancel_nextCount : (s.withCancel c).nextCount = s.nextCount := rfl
@[simp] theorem withCancel_nextRead : (s.withCancel c).nextRead = s.nextRead := rfl
@[simp] theorem withCancel_wakeTime : (s.withCancel c).wakeTime = s.wakeTime := rfl
@[simp] theorem withCancel_t0Time : (s.withCancel c).t0Time = s.t0Time := rfl
@[simp] theorem withCancel_filled : (s.withCancel c).filled = s.filled := rfl
@[simp] theorem withCancel_buf : (s.withCancel c).buf = s.buf := rfl

theorem dropCount_withCancel : (s.withCancel c).dropCount = s.dropCount.withCancel c := by
  unfold State.dropCount
  rw [withCancel_counts]
  cases s.counts <;> rfl

theorem dropRead_withCancel : (s.withCancel c).dropRead = s.dropRead.withCancel c := by
  unfold State.dropRead
  rw [withCancel_reads]
  cases s.reads <;> rfl

theorem adapter_withCancel (g : Frame) (n : Int) :
    State.adapter g n (s.withCancel c) = (State.adapter g n s).withCancel c := by
  unfold State.adapter
  rw [withCancel_frameSync]
  split
  · cases s.frameSync
    · rcases decodeFrame g with e | i
      · rfl
      · cases i <;> rfl
    · rfl
  · rfl

/-- A command write neither reads nor writes the cancellation input (R204). -/
theorem cmdWrite_withCancel (g : Frame) : (s.withCancel c).cmdWrite g = (s.cmdWrite g).withCancel c := by
  unfold State.cmdWrite
  rw [withCancel_nextCount, dropCount_withCancel, ← adapter_withCancel]
  rfl

end Cancel

end Sys2Proof.Machine
end

