-- ==== Sys2Proof/Tests/Slice0.lean ====
section
/-! SUPPORT. Tests: the checks of WellFormed, words written out from the encoding tables of spec/30_encoding.md, single
steps taken from the vectors of spec/95_test_vectors.md, and a witness for the hypotheses of every statement. -/

namespace Sys2Proof.Tests

open Sys2Proof Sys2Proof.Machine

/-- An idle block with `N = 4`, `TRIG_BIT = 0` and `CLK = 5000`, the start of most vectors. -/
def small : State := State.initial ⟨3, 0, .msbFirst⟩ 5000

/-- The small block in a micro-state, with the answers of the environment scheduled. -/
def at_ (q : Seq) (counts : List Int) (reads : List (List Byte)) : State :=
  { small with seq := q, counts := counts, reads := reads }

/-- The small block before L_SCAN with the given buffer. -/
def scan (m : Memory) : State := { small with seq := .lScan, filled := 4, buf := m }

/-- A part of the next state, if there is one. -/
def after {α : Type} (o : Host.Outcome State Fault Refusal) (f : State → α) : Option α :=
  match o with
  | .next t => some (f t)
  | .fault _ => none
  | .refused _ => none

/-! ### WellFormed -/

/-- V-CAP-9: `N = 0` and `N = 65537` are refused, `N = 1` and `N = 65536` are not (R89). -/
theorem test_wf_capacity :
    RawConfig.wf ⟨0, 0, .msbFirst⟩ = false ∧ RawConfig.toCfg ⟨65537, 0, .msbFirst⟩ = none ∧
    RawConfig.wf ⟨1, 0, .msbFirst⟩ = true ∧ RawConfig.toCfg ⟨65536, 7, .msbFirst⟩ = some ⟨0xFFFF, 7, .msbFirst⟩ := by
  decide

/-- R8: `TRIG_BIT = 8` is refused. -/
theorem test_wf_trig_bit :
    RawConfig.wf ⟨4, 8, .msbFirst⟩ = false ∧ RawConfig.toCfg ⟨4, 8, .msbFirst⟩ = none := by decide

/-- R97, R98: a frame is no host operation, a host operation no frame. -/
theorem test_wf_level :
    Instr.wfAt .host (.gpioSet 0xFF 0x01) = false ∧ Instr.wfAt .wire .trigger = false ∧
    Instr.wfAt .host .trigger = true ∧ Instr.wfAt .wire (.capture 0) = true := by decide

/-! ### Decode -/

/-- R96: 0000_0001 is TRIGGER, 0000_0010 CAPINIT, 0000_0011 ACCUMULATE, 0000_0100 LOCATE. -/
theorem test_decode_host_ops :
    decodeTableWord 8 0b00000001 = some .trigger ∧ decodeTableWord 8 0b00000010 = some .capinit ∧
    decodeTableWord 8 0b00000011 = some .accumulate ∧ decodeTableWord 8 0b00000100 = some .locate := by decide

/-- R86, R90: `80 7F 80` is GPIO_SET 0x7F, 0x80; `2C 03 01` is CAPTURE with `L = 3 + 256 = 0x0103`. -/
theorem test_decode_frames :
    decodeTableWord 24 0b100000000111111110000000 = some (.gpioSet 0x7F 0x80) ∧
    decodeTableWord 24 0b001011000000001100000001 = some (.capture 0x0103) := by decide

/-- V-DEC-1 to V-DEC-4, R98: reserved op codes and other wire opcodes are rejected by name. -/
theorem test_decode_rejects :
    decodeHostOp 0x00 = .error (.reservedOp 0x00) ∧ decodeHostOp 0x05 = .error (.reservedOp 0x05) ∧
    decodeHostOp 0xFF = .error (.reservedOp 0xFF) ∧ decodeHostOp 0x80 = .error (.reservedOp 0x80) ∧
    decodeFrame ⟨0x82, 0, 0⟩ = .error (.wireOpcode 0x82) ∧ decodeBytes .wire [0x80, 0xFF] = .error .truncated := by
  decide

/-- R100: the assembler's spelling, and the bytes of a program with a CYCLE in it. -/
theorem test_assembler :
    Instr.print (.gpioSet 0xFF 0x01) = "GPIO_SET 0xFF, 0x01" ∧ Instr.print (.capture 0xFFFF) = "CAPTURE 0xFFFF" ∧
    assemble [⟨some "a", some .cycle, none⟩, ⟨none, none, some "x"⟩, ⟨none, some (.op .locate), none⟩] =
      some [0x01, 0x02, 0x03, 0x04, 0x04] := by decide

/-! ### Instructions -/

/-- V-TRG-1: the first frame `80 FF 01` and `WAKE = 15000`. -/
theorem test_trigger_first_frame :
    after (exec .trigger (at_ .tHigh [3] [])) (fun t => (t.cmdlog, t.wake, t.trigLevel)) =
      some ([(⟨0x80, 0xFF, 0x01⟩, 3)], some 15000, .high) := by decide

/-- V-TRG-10: with `TRIG_BIT = 7` the second frame is `80 7F 80`, and STATUS ends at 0x0100. -/
theorem test_trigger_second_frame :
    after (exec .trigger { at_ .tLow [3] [] with cfg := ⟨3, 7, .msbFirst⟩, lastOp := 1 })
        (fun t => (t.cmdlog, t.statusWord, t.trigLevel)) =
      some ([(⟨0x80, 0x7F, 0x80⟩, 3)], 0x0100, .low) := by decide

/-- V-CAP-5: with `N = 257` the frame is `2C 00 01`. -/
theorem test_capinit_frame :
    after (exec .capinit { at_ .cWrite [3] [] with cfg := ⟨256, 0, .msbFirst⟩ }) (fun t => (t.cmdlog, t.streaming)) =
      some ([(⟨0x2C, 0x00, 0x01⟩, 3)], some 257) := by decide

/-- V-CAP-7: a write of two bytes gives STATUS 0x0201 and an unknown adapter. -/
theorem test_capinit_short :
    after (exec .capinit { at_ .cWrite [2] [] with lastOp := 2 }) (fun t => (t.statusWord, t.frameSync, t.streaming)) =
      some (0x0201, .unknown, none) := by decide

/-- V-ACC-2: the last read `[00 30]` lands at indices 2 and 3. -/
theorem test_accumulate_append :
    after (exec .accumulate { at_ .aRead [] [[0x00, 0x30]] with filled := 2, buf := [(1, 0x06)] })
        (fun t => (t.buf, t.filled, t.seq)) = some ([(1, 0x06), (3, 0x30)], 4, .aCheck) := by decide

/-- V-ACC-3, L1-13: elapsed 1000000000 continues, 1000000001 is a TimeoutError with STATUS 0x0302. -/
theorem test_accumulate_deadline :
    after (exec .accumulate { at_ .aCheck [] [] with t0 := some 0, clk := 1000000000, lastOp := 3 })
        (fun t => t.seq) = some .aRead ∧
    after (exec .accumulate { at_ .aCheck [] [] with t0 := some 0, clk := 1000000001, lastOp := 3 })
        (fun t => t.statusWord) = some 0x0302 := by decide

/-- V-LOC-8: `00 81 00 81` gives 15 and 31. -/
theorem test_locate_window :
    after (exec .locate { scan [(1, 0x81), (3, 0x81)] with lastOp := 4 })
        (fun t => (t.startBit, t.endBit, t.statusWord)) = some (some 15, some 31, 0x0430) := by decide

/-- V-LOC-3: `01 FF FF FF` is NoPulseStart; V-LOC-13: `03 00 00 00` is NoPulseEnd with START_BIT 1. -/
theorem test_locate_failures :
    after (exec .locate { scan [(0, 0x01), (1, 0xFF), (2, 0xFF), (3, 0xFF)] with lastOp := 4 })
        (fun t => t.statusWord) = some 0x0403 ∧
    after (exec .locate { scan [(0, 0x03)] with lastOp := 4 }) (fun t => (t.startBit, t.statusWord)) =
      some (some 1, 0x0414) := by decide

/-- R209: GPIO_SET sets value and direction; V-CAP-10's rule for a parser out of step. -/
theorem test_gpio_set :
    after (exec (.gpioSet 0xFE 0x01) (at_ .idle [3] [])) (fun t => (t.gpioVal, t.gpioDir, t.trigLevel)) =
      some (some 0xFE, some 0x01, .low) ∧
    after (exec (.gpioSet 0xFE 0x01) { at_ .idle [3] [] with frameSync := .unknown }) (fun t => t.gpioVal) =
      some none := by decide

/-- R210: CAPTURE 0xFFFF asks for 65536 bytes; R211: a count of 4 loses the adapter. -/
theorem test_capture :
    after (exec (.capture 0xFFFF) (at_ .idle [3] [])) (fun t => t.streaming) = some (some 65536) ∧
    after (exec (.capture 0xFFFF) (at_ .idle [4] [])) (fun t => (t.streaming, t.frameSync)) =
      some (none, .unknown) := by decide

/-- V-DEC-8: CONFIG with `N = 4` and `TRIG_BIT = 7`; V-DEC-6: register 5 does not exist. -/
theorem test_registers :
    State.register { small with cfg := ⟨3, 7, .msbFirst⟩ } 4 = some (some 0x00070003) ∧
    State.register small 5 = none ∧ State.statusWord { small with seq := .tSleep, lastOp := 1 } = 0x0108 := by decide

/-- R80: while an operation is in progress, and between two operations of a CYCLE, a frame of another agent is not
written; with no host program it is. -/
theorem test_port_is_the_blocks :
    after (step { at_ .tSleep [3] [] with agenda := [.frame ⟨0x80, 0, 0⟩] }) (fun t => t.cmdlog) = some [] ∧
    after (step { at_ .idle [3] [] with hostPc := .present .capinit false, agenda := [.frame ⟨0x80, 0, 0⟩] })
        (fun t => t.cmdlog) = some [] ∧
    after (step { at_ .idle [3] [] with agenda := [.frame ⟨0x80, 0, 0⟩] }) (fun t => t.cmdlog) =
      some [(⟨0x80, 0, 0⟩, 3)] := by decide

/-- The spot checks of 95 section 2.1. -/
theorem test_hsb :
    hsb 0x01 = 0 ∧ hsb 0x06 = 2 ∧ hsb 0x30 = 5 ∧ hsb 0x81 = 7 ∧ hsb 0x7F = 6 ∧ hsb 0xFF = 7 := by decide

/-! ### Witnesses: states that meet the hypotheses of the statements -/

theorem witness_EncodeReadsBackEveryDecoding :
    decodeBytes .host [0x04, 0x09] = .ok (.locate, [0x09]) ∧
    decodeBytes .wire [0x80, 0xFF, 0x01, 0x09] = .ok (.gpioSet 0xFF 0x01, [0x09]) ∧
    decodeBytes .wire [0x2C, 0x00, 0x01] = .ok (.capture 0x0100, []) := by decide

theorem witness_StepRunsThePresentedOperation :
    ∃ (s : State) (op : Byte) (rest : List Turn) (i : Instr),
      s.seq = .idle ∧ s.agenda = .present op :: rest ∧ decodeHostOp op = .ok i :=
  ⟨{ small with agenda := [.present 0x04, .block] }, 0x04, [.block], .locate, rfl, rfl, by decide⟩

theorem witness_StepRunsTheOperationInProgress_scheduled :
    ∃ (s : State) (o : HostOp) (rest : List Turn), Seq.op s.seq = some o ∧ s.agenda = .block :: rest :=
  ⟨{ at_ .tLow [3] [] with agenda := [.block] }, .trigger, [], rfl, rfl⟩

theorem witness_StepRunsTheOperationInProgress_free :
    ∃ (s : State) (o : HostOp),
      Seq.op s.seq = some o ∧ s.agenda = [] ∧ s.untilTick ≠ 0 ∧ ¬(s.seq = .tSleep ∧ s.clk < s.wakeTime) :=
  ⟨{ at_ .tSleep [] [] with wake := some 5000, untilTick := 1 }, .trigger, by decide⟩

theorem witness_StepRunsTheFrameAtThePort :
    (∃ (s : State) (f : Frame) (rest : List Turn) (i : Instr),
      s.agenda = .frame f :: rest ∧ s.hostRuns = false ∧ decodeBytes .wire f.bytes = .ok (i, [])) ∧
    (∃ (s : State) (f : Frame) (rest : List Turn), s.agenda = .frame f :: rest ∧ s.hostRuns = true ∧ s.seq = .tSleep) ∧
    (∃ (s : State) (f : Frame) (rest : List Turn), s.agenda = .frame f :: rest ∧ s.hostRuns = true ∧ s.seq = .idle) :=
  ⟨⟨{ small with agenda := [.frame ⟨0x2C, 0xFF, 0xFF⟩] }, ⟨0x2C, 0xFF, 0xFF⟩, [], .capture 0xFFFF, by decide⟩,
    ⟨{ at_ .tSleep [] [] with agenda := [.frame ⟨0x80, 0, 0⟩] }, ⟨0x80, 0, 0⟩, [], by decide⟩,
    ⟨{ small with hostPc := .poll, agenda := [.frame ⟨0x80, 0, 0⟩] }, ⟨0x80, 0, 0⟩, [], by decide⟩⟩

theorem witness_PlacedWordIsTheNextInstruction :
    decodeTableWord 8 0x04 = some .locate ∧ decodeTableWord 24 0x2CFFFF = some (.capture 0xFFFF) := by decide

theorem witness_IssueStartsTheOperation :
    ∃ (s : State) (rest : List Turn), s.seq = .idle ∧ s.agenda = .present (HostOp.code .accumulate) :: rest :=
  ⟨{ small with agenda := [.present 0x03] }, [], rfl, rfl⟩

theorem witness_ReservedOpCodeOnlySetsRefused :
    ∃ (s : State) (a b c : Byte),
      s.seq = .idle ∧ s.agenda = [.present a, .present b, .present c] ∧ (a = 0#8 ∨ 5 ≤ a.toNat) ∧
      (b = 0#8 ∨ 5 ≤ b.toNat) ∧ (c = 0#8 ∨ 5 ≤ c.toNat) :=
  ⟨{ small with agenda := [.present 0x00, .present 0x05, .present 0xFF] }, 0x00, 0x05, 0xFF, rfl, rfl, by decide⟩

theorem witness_OpCodeWhileBusyOnlySetsBusyFault :
    ∃ (s : State) (op : Byte) (rest : List Turn), s.seq ≠ .idle ∧ s.agenda = .present op :: rest :=
  ⟨{ at_ .tSleep [] [] with agenda := [.present 0x02] }, 0x02, [], by decide, rfl⟩

theorem witness_TriggerWritesTheFirstFrame : ∃ s : State, s.seq = .tHigh ∧ s.nextCount = 3 :=
  ⟨at_ .tHigh [3] [], rfl, rfl⟩

theorem witness_TriggerWritesTheSecondFrame : ∃ s : State, s.seq = .tLow ∧ s.nextCount = 3 :=
  ⟨at_ .tLow [3] [], rfl, rfl⟩

theorem witness_TriggerFrameFails_first : ∃ s : State, s.nextCount ≠ 3 ∧ s.seq = .tHigh :=
  ⟨at_ .tHigh [4] [], by decide, rfl⟩

theorem witness_TriggerFrameFails_second : ∃ s : State, s.nextCount ≠ 3 ∧ s.seq = .tLow :=
  ⟨at_ .tLow [-1] [], by decide, rfl⟩

theorem witness_TriggerSleepIsAHold_held : ∃ (s : State) (w : Nat), s.seq = .tSleep ∧ s.wake = some w ∧ s.clk < w :=
  ⟨{ at_ .tSleep [] [] with wake := some 5001 }, 5001, by decide⟩

theorem witness_TriggerSleepIsAHold_over : ∃ (s : State) (w : Nat), s.seq = .tSleep ∧ s.wake = some w ∧ ¬s.clk < w :=
  ⟨{ at_ .tSleep [] [] with wake := some 5000 }, 5000, by decide⟩

theorem witness_TriggerDrivesTheLine :
    (∃ s : State, s.frameSync = .aligned ∧ s.nextCount = 3 ∧ s.seq = .tHigh) ∧
    (∃ s : State, s.frameSync = .aligned ∧ s.nextCount = 3 ∧ s.seq = .tLow) :=
  ⟨⟨at_ .tHigh [3] [], rfl, rfl, rfl⟩, ⟨at_ .tLow [3] [], rfl, rfl, rfl⟩⟩

theorem witness_SleepNeverEndsEarly_step :
    ∃ s t : State, s.seq = .tSleep ∧ step s = .next t ∧ s.agenda.head? ≠ some .reset ∧ t.seq ≠ .tSleep :=
  ⟨{ at_ .tSleep [] [] with wake := some 5000, agenda := [.block] },
    { at_ .tLow [] [] with wake := some 5000 }, rfl, rfl, by decide, by decide⟩

theorem witness_SleepNeverEndsEarly_over :
    ∃ (s : State) (rest : List Turn), s.seq = .tSleep ∧ s.agenda = .block :: rest ∧ s.wakeTime ≤ s.clk :=
  ⟨{ at_ .tSleep [] [] with wake := some 5000, agenda := [.block] }, [], by decide⟩

theorem witness_TriggerWholeOperation :
    ∃ (s : State) (d : Nat) (ns : List Int) (rest : List Turn),
      s.seq = .idle ∧ s.frameSync = .aligned ∧ s.counts = 3 :: 3 :: ns ∧ 10000 ≤ d ∧
      s.agenda = .present 0x01 :: .block :: .clock d :: .block :: .block :: rest :=
  ⟨{ at_ .idle [3, 3] [] with agenda := [.present 0x01, .block, .clock 10000, .block, .block] }, 10000, [], [],
    rfl, rfl, rfl, by decide, rfl⟩

/-- The small block before the first frame, with a clock advance of exactly `PULSE_NS` scheduled behind it. -/
def pulse : State := { at_ .tHigh [3] [] with agenda := [.clock 10000, .block] }

theorem witness_PulseGapIsAtLeastPulseNs :
    ∃ (s t u : State) (n : Nat), s.seq = .tHigh ∧ s.nextCount = 3 ∧ exec .trigger s = .next t ∧
      Host.Core.run Sys2Proof.core n t = .next u ∧ u.seq = .tLow :=
  ⟨pulse, tHighStep pulse, { tHighStep pulse with seq := .tLow, clk := 15000, agenda := [] }, 2, rfl, rfl, rfl, rfl, rfl⟩

theorem witness_CapinitStartsTheCapture : ∃ s : State, s.seq = .cWrite ∧ s.nextCount = 3 :=
  ⟨at_ .cWrite [3] [], rfl, rfl⟩

theorem witness_CapinitFrameFails : ∃ s : State, s.seq = .cWrite ∧ s.nextCount ≠ 3 :=
  ⟨at_ .cWrite [2] [], rfl, by decide⟩

theorem witness_AccumulateStartsEmpty : ∃ s : State, s.seq = .aInit := ⟨at_ .aInit [] [], rfl⟩

theorem witness_AccumulateAppendsTheAnswer :
    (∃ s : State, s.seq = .aRead ∧ Memory.wf s.buf ∧ s.nextRead.length ≤ s.cfg.capacity - s.filled ∧ s.nextRead ≠ []) ∧
    (∃ s : State, s.seq = .aRead ∧ Memory.wf s.buf ∧ s.nextRead.length ≤ s.cfg.capacity - s.filled ∧ s.nextRead = []) :=
  ⟨⟨{ at_ .aRead [] [[0x00, 0x30]] with filled := 2, buf := [(1, 0x06)] }, by decide⟩,
    ⟨{ at_ .aRead [] [[]] with filled := 2, buf := [(1, 0x06)] }, by decide⟩⟩

theorem witness_SourceOverrunAppendsNothing :
    ∃ s : State, s.seq = .aRead ∧ s.cfg.capacity - s.filled < s.nextRead.length :=
  ⟨at_ .aRead [] [[1, 2, 3, 4, 5]], by decide⟩

theorem witness_AccumulateChecksFullThenDeadline_full :
    ∃ (s : State) (t0 : Nat), s.seq = .aCheck ∧ s.t0 = some t0 ∧ s.filled = s.cfg.capacity :=
  ⟨{ at_ .aCheck [] [] with filled := 4, t0 := some 0, clk := 3000000000 }, 0, by decide⟩

theorem witness_AccumulateChecksFullThenDeadline_late :
    ∃ (s : State) (t0 : Nat),
      s.seq = .aCheck ∧ s.t0 = some t0 ∧ s.filled ≠ s.cfg.capacity ∧ 1000000000 < s.clk - t0 :=
  ⟨{ at_ .aCheck [] [] with filled := 3, t0 := some 0, clk := 1000000001 }, 0, by decide⟩

theorem witness_AccumulateChecksFullThenDeadline_again :
    ∃ (s : State) (t0 : Nat),
      s.seq = .aCheck ∧ s.t0 = some t0 ∧ s.filled ≠ s.cfg.capacity ∧ ¬1000000000 < s.clk - t0 :=
  ⟨{ at_ .aCheck [] [] with filled := 3, t0 := some 0, clk := 1000000000 }, 0, by decide⟩

/-- The small block in A_CHECK of a running ACCUMULATE, with `k` bytes of 0xFF in the buffer and the clock at `t`. -/
def checking (k t : Nat) : State :=
  { small with
    seq := .aCheck, curOp := 0x03, lastOp := 3, t0 := some 0, clk := t, filled := k
    buf := [(0, 0xFF), (1, 0xFF), (2, 0xFF), (3, 0xFF)].take k }

theorem checking_inv (k t : Nat) (h : k ≤ 4) : (checking k t).Inv := by
  have h' : k = 0 ∨ k = 1 ∨ k = 2 ∨ k = 3 ∨ k = 4 := by omega
  constructor <;> rcases h' with rfl | rfl | rfl | rfl | rfl <;>
    simp [checking, small, State.initial, Seq.op, HostOp.code, HostOp.number, Cfg.capacity] <;> decide

theorem witness_FullBufferWinsOverTheDeadline_full :
    ∃ s t : State, s.Inv ∧ s.seq = .aCheck ∧ exec .accumulate s = .next t ∧ s.filled = s.cfg.capacity :=
  ⟨checking 4 3000000000, _, checking_inv _ _ (by decide), rfl, rfl, rfl⟩

theorem witness_FullBufferWinsOverTheDeadline_late :
    ∃ s t : State, s.Inv ∧ s.seq = .aCheck ∧ exec .accumulate s = .next t ∧ t.err = .timeout :=
  ⟨checking 3 1000000001, aCheckStep (checking 3 1000000001), checking_inv _ _ (by decide), rfl, rfl, by decide⟩

theorem witness_CaptureArrivesInStreamOrder :
    ∃ (s : State) (pieces : List (List Byte)) (last : List Byte) (rest : List (List Byte)) (later : List Turn),
      s.seq = .aInit ∧ s.agenda = List.replicate (1 + 2 * (pieces.length + 1)) .block ++ later ∧
      s.reads = pieces ++ last :: rest ∧
      pieces.flatten.length < s.cfg.capacity ∧ (pieces ++ [last]).flatten.length = s.cfg.capacity :=
  ⟨{ at_ .aInit [] [[0x00, 0x06], [], [0x00, 0x30]] with agenda := List.replicate 7 .block ++ [.readReg 0] },
    [[0x00, 0x06], []], [0x00, 0x30], [], [.readReg 0], by decide⟩

theorem witness_LocateFindsTheWindow :
    ∃ (s : State) (i j a b : Nat),
      s.seq = .lScan ∧ s.filled = s.cfg.capacity ∧ i < j ∧ j < s.cfg.capacity ∧
      (∀ k < i, Memory.read s.buf k = 0#8) ∧ (∀ k, j < k → k < s.cfg.capacity → Memory.read s.buf k = 0#8) ∧
      2 ^ a ≤ (Memory.read s.buf i).toNat ∧ (Memory.read s.buf i).toNat < 2 ^ (a + 1) ∧
      2 ^ b ≤ (Memory.read s.buf j).toNat ∧ (Memory.read s.buf j).toNat < 2 ^ (b + 1) ∧ 8 * i + a ≠ 0 := by
  refine ⟨scan [(0, 0x02), (3, 0x01)], 0, 3, 1, 0, by decide, by decide, by decide, by decide, by decide, ?_, by decide,
    by decide, by decide, by decide, by decide⟩
  intro k h1 h2
  have : k < 4 := h2
  omega

theorem witness_LocateEmptyBufferIsNoPulseStart :
    ∃ s : State, s.seq = .lScan ∧ s.filled = s.cfg.capacity ∧ ∀ k < s.cfg.capacity, Memory.read s.buf k = 0#8 :=
  ⟨scan [], by decide⟩

theorem witness_LocateZeroBoundaryIsNoPulseStart :
    ∃ s : State, s.seq = .lScan ∧ s.filled = s.cfg.capacity ∧ Memory.read s.buf 0 = 0x01 :=
  ⟨scan [(0, 0x01), (3, 0xFF)], by decide⟩

theorem witness_LocateLoneByteIsNoPulseEnd :
    (∃ (s : State) (i a : Nat), s.seq = .lScan ∧ s.filled = s.cfg.capacity ∧ i < s.cfg.capacity ∧
      (∀ k < s.cfg.capacity, k ≠ i → Memory.read s.buf k = 0#8) ∧
      2 ^ a ≤ (Memory.read s.buf i).toNat ∧ (Memory.read s.buf i).toNat < 2 ^ (a + 1) ∧ 8 * i + a ≠ 0 ∧ i = 0) ∧
    (∃ (s : State) (i a : Nat), s.seq = .lScan ∧ s.filled = s.cfg.capacity ∧ i < s.cfg.capacity ∧
      (∀ k < s.cfg.capacity, k ≠ i → Memory.read s.buf k = 0#8) ∧
      2 ^ a ≤ (Memory.read s.buf i).toNat ∧ (Memory.read s.buf i).toNat < 2 ^ (a + 1) ∧ 8 * i + a ≠ 0 ∧ i = 3) :=
  ⟨⟨scan [(0, 0x03)], 0, 1, by decide⟩, ⟨scan [(3, 0x01)], 3, 0, by decide⟩⟩

theorem witness_LocatePartialBufferOnlySetsItsFault : ∃ s : State, s.seq = .lScan ∧ s.filled ≠ s.cfg.capacity :=
  ⟨at_ .lScan [] [], by decide⟩

theorem witness_LocateEqualsTheWholeBufferReading :
    (∃ (s : State) (i e : Nat), s.seq = .lScan ∧ s.filled = s.cfg.capacity ∧ i < s.cfg.capacity ∧
      Memory.read s.buf i ≠ 0#8 ∧ (∀ k < i, Memory.read s.buf k = 0#8) ∧ e < s.cfg.capacity ∧
      Memory.read s.buf e ≠ 0#8 ∧ (∀ k < s.cfg.capacity, e < k → Memory.read s.buf k = 0#8) ∧ bitIndex s.buf i ≠ 0 ∧
      bitIndex s.buf e ≤ bitIndex s.buf i) ∧
    (∃ (s : State) (i e : Nat), s.seq = .lScan ∧ s.filled = s.cfg.capacity ∧ i < s.cfg.capacity ∧
      Memory.read s.buf i ≠ 0#8 ∧ (∀ k < i, Memory.read s.buf k = 0#8) ∧ e < s.cfg.capacity ∧
      Memory.read s.buf e ≠ 0#8 ∧ (∀ k < s.cfg.capacity, e < k → Memory.read s.buf k = 0#8) ∧ bitIndex s.buf i ≠ 0 ∧
      ¬bitIndex s.buf e ≤ bitIndex s.buf i) :=
  ⟨⟨scan [(1, 0x81)], 1, 1, by decide⟩, ⟨scan [(1, 0x06), (3, 0x30)], 1, 3, by decide⟩⟩

/-- The small block in L_SCAN of a running LOCATE, its buffer full and all 0x00. -/
def located : State := { small with seq := .lScan, curOp := 0x04, lastOp := 4, filled := 4 }

theorem located_inv : located.Inv := by
  constructor <;>
    simp [located, small, State.initial, Seq.op, HostOp.code, HostOp.number, Cfg.capacity]
  decide

theorem witness_LocateTwiceGivesTheSame :
    ∃ s t : State, s.Inv ∧ s.seq = .lScan ∧ s.filled = s.cfg.capacity ∧ exec .locate s = .next t :=
  ⟨located, _, located_inv, rfl, rfl, rfl⟩

theorem witness_GpioSetSetsTheBank :
    (∃ s : State, s.nextCount = 3 ∧ s.frameSync = .aligned) ∧ (∃ s : State, s.nextCount = 3 ∧ s.frameSync = .unknown) :=
  ⟨⟨at_ .idle [3] [], rfl, rfl⟩, ⟨{ at_ .idle [3] [] with frameSync := .unknown }, rfl, rfl⟩⟩

theorem witness_CaptureRequestsItsLength : ∃ s : State, s.nextCount = 3 := ⟨at_ .cWrite [3] [], rfl⟩

theorem witness_MiscountedWriteLosesTheAdapter : ∃ s : State, s.nextCount ≠ 3 := ⟨at_ .idle [0] [], by decide⟩

theorem witness_FrameSyncIsNeverRegained : ∃ s t : State, step s = .next t ∧ s.frameSync = .unknown :=
  ⟨{ small with frameSync := .unknown, agenda := [.reset] }, { small with frameSync := .unknown }, rfl, rfl⟩

theorem witness_RegisterReadHasNoSideEffect :
    (∃ (s : State) (r : Byte) (rest : List Turn), s.agenda = .readReg r :: rest ∧ r.toNat < 5) ∧
    (∃ (s : State) (r : Byte) (rest : List Turn), s.agenda = .readReg r :: rest ∧ 5 ≤ r.toNat) :=
  ⟨⟨{ small with agenda := [.readReg 4] }, 4, [], rfl, by decide⟩,
    ⟨{ small with agenda := [.readReg 5] }, 5, [], rfl, by decide⟩⟩

theorem witness_RegistersHoldTheirContent_valid :
    ∃ (s : State) (v e : Nat), s.filled < 2 ^ 17 ∧ s.startValid = true ∧ s.startBit = some v ∧ v < 2 ^ 19 ∧
      s.endValid = true ∧ s.endBit = some e ∧ e < 2 ^ 19 :=
  ⟨{ small with filled := 65536, startValid := true, startBit := some 8, endValid := true, endBit := some 524287 },
    8, 524287, by decide⟩

theorem witness_RegistersHoldTheirContent_undefined : ∃ s : State, s.startValid = false ∧ s.endValid = false :=
  ⟨small, rfl, rfl⟩

theorem witness_HostReadsTheBufferOnlyWhileIdle :
    (∃ (s : State) (i : Nat) (rest : List Turn), s.agenda = .readBuf i :: rest ∧ s.seq ≠ .idle) ∧
    (∃ (s : State) (i : Nat) (rest : List Turn), s.agenda = .readBuf i :: rest ∧ s.seq = .idle ∧ i < s.cfg.capacity) ∧
    (∃ (s : State) (i : Nat) (rest : List Turn), s.agenda = .readBuf i :: rest ∧ s.seq = .idle ∧ ¬i < s.cfg.capacity) :=
  ⟨⟨{ at_ .aRead [] [] with agenda := [.readBuf 0] }, 0, [], by decide⟩,
    ⟨{ small with agenda := [.readBuf 3] }, 3, [], by decide⟩, ⟨{ small with agenda := [.readBuf 4] }, 4, [], by decide⟩⟩

theorem witness_ResetEndsTheOperation :
    (∃ (s : State) (rest : List Turn), s.agenda = .reset :: rest ∧ s.seq = .idle) ∧
    (∃ (s : State) (rest : List Turn), s.agenda = .reset :: rest ∧ s.seq ≠ .idle) :=
  ⟨⟨{ small with agenda := [.reset] }, [], by decide⟩, ⟨{ at_ .tSleep [] [] with agenda := [.reset] }, [], by decide⟩⟩

theorem witness_EveryStepKeepsTheBlockConditions : ∃ s t : State, s.Inv ∧ step s = .next t :=
  ⟨{ located with agenda := [.block] }, lScanStep located, { located_inv with }, rfl⟩

theorem witness_SequencerFollowsItsSuccessors_micro :
    ∃ (s t : State) (o : HostOp), Seq.op s.seq = some o ∧ exec o.instr s = .next t :=
  ⟨at_ .cWrite [3] [], _, .capinit, rfl, rfl⟩

theorem witness_SequencerFollowsItsSuccessors_issue :
    (∃ s t : State, step s = .next t ∧ s.seq = .idle ∧ t.seq ≠ .idle ∧ s.agenda.head? = some (.present 0x03)) ∧
    (∃ s t : State, step s = .next t ∧ s.seq = .idle ∧ t.seq ≠ .idle ∧ s.agenda.head? = some .host) ∧
    (∃ s t : State, step s = .next t ∧ s.seq = .idle ∧ t.seq ≠ .idle ∧ s.agenda = []) :=
  ⟨⟨{ small with agenda := [.present 0x03] }, small.issue .accumulate, rfl, by decide⟩,
    ⟨{ small with agenda := [.host], program := [.op .locate] }, { small with hostPc := .waitOp }.issue .locate, rfl,
      by decide⟩,
    ⟨{ small with program := [.op .locate], untilTick := 1 }, { small with hostPc := .waitOp }.issue .locate, rfl,
      by decide⟩⟩

theorem witness_SequencerFollowsItsSuccessors_busy :
    ∃ s t : State, step s = .next t ∧ s.seq ≠ .idle ∧ s.agenda.head? ≠ some .reset ∧ t.seq ≠ s.seq :=
  ⟨{ at_ .cWrite [3] [] with agenda := [.block] }, cWriteStep (at_ .cWrite [3] []), rfl, by decide⟩

theorem witness_SequencerFollowsItsSuccessors_others :
    (∃ s t : State, step s = .next t ∧ s.agenda.head? = some (.clock 7) ∧ s.seq = .tSleep) ∧
    (∃ s t : State, step s = .next t ∧ s.agenda.head? = some (.present 0x01) ∧ s.seq ≠ .idle) ∧
    (∃ s t : State, step s = .next t ∧ s.agenda.head? = some .block ∧ s.seq = .idle) ∧
    (∃ s t : State, step s = .next t ∧ s.agenda.head? = some .reset) :=
  ⟨⟨{ at_ .tSleep [] [] with agenda := [.clock 7] }, { at_ .tSleep [] [] with clk := 5007 }, rfl, rfl, rfl⟩,
    ⟨{ at_ .tSleep [] [] with agenda := [.present 0x01] }, (at_ .tSleep [] []).mark .busy, rfl, rfl, by decide⟩,
    ⟨{ small with agenda := [.block] }, small, rfl, rfl, rfl⟩,
    ⟨{ small with agenda := [.reset] }, small, rfl, rfl⟩⟩

/-- A clock turn, the clock's two free moves, and a step of another agent. -/
theorem witness_OnlyTheEnvironmentMovesTheClock :
    (∃ (s : State) (d : Nat) (rest : List Turn), s.agenda = .clock d :: rest ∧ s.seq = .aInit) ∧
    (∃ s : State, s.agenda = [] ∧ s.untilTick = 0 ∧ s.blockEnabled = true) ∧
    (∃ s : State, s.agenda = [] ∧ s.untilTick ≠ 0 ∧ s.blockEnabled = false ∧ s.hostEnabled = false) ∧
    (∃ s t : State, step s = .next t ∧ (∀ d, s.agenda.head? ≠ some (.clock d)) ∧
      ¬(s.agenda = [] ∧ (s.untilTick = 0 ∨ (s.blockEnabled = false ∧ s.hostEnabled = false)))) :=
  ⟨⟨{ at_ .aInit [] [] with agenda := [.clock 7] }, 7, [], rfl, rfl⟩, ⟨at_ .aRead [] [[]], rfl, rfl, rfl⟩,
    ⟨{ at_ .tSleep [] [] with wake := some 5001, untilTick := 1 }, by decide⟩,
    ⟨{ at_ .cWrite [3] [] with untilTick := 1 }, cWriteStep (at_ .cWrite [3] []), rfl, fun d h => (nomatch h), by decide⟩⟩

theorem witness_FaultsAndRefusalsStay :
    ∃ s t : State, step s = .next t ∧ s.agenda.head? ≠ some .reset ∧ FaultSet.has .busy s.faults = true ∧
      s.refused = true :=
  ⟨{ small with agenda := [.clock 7], faults := { busy := true }, refused := true },
    { small with clk := 5007, faults := { busy := true }, refused := true }, rfl, by decide, rfl, rfl⟩

/-- The sequencer's move; a frame of another agent while a host program runs; another agent's turn with no program. -/
theorem witness_OnlyTheBlockUsesTheDevice :
    (∃ s t : State, step s = .next t ∧ s.sequencerMoves ∧ s.hostRuns = true) ∧
    (∃ s t : State, step s = .next t ∧ s.hostRuns = true ∧ s.agenda.head? = some (.frame ⟨0x80, 0, 0⟩) ∧
      ¬s.sequencerMoves ∧ s.seq ≠ .aRead) ∧
    (∃ s t : State, step s = .next t ∧ s.hostRuns = false ∧ (∀ f, s.agenda.head? ≠ some (.frame f)) ∧
      ¬s.sequencerMoves) :=
  ⟨⟨{ at_ .cWrite [3] [] with agenda := [.block] }, cWriteStep (at_ .cWrite [3] []), rfl, by decide⟩,
    ⟨{ at_ .tSleep [3] [] with agenda := [.frame ⟨0x80, 0, 0⟩] }, at_ .tSleep [3] [], rfl, by decide⟩,
    ⟨{ small with agenda := [.clock 7] }, { small with clk := 5007 }, rfl, rfl, fun f h => (nomatch h), by decide⟩⟩

/-- Another agent's turn at A_READ, the clock's free move at A_INIT, and the sequencer's move elsewhere. -/
theorem witness_OnlyAccumulateWritesTheBuffer :
    (∃ s t : State, step s = .next t ∧ s.agenda.head? = some (.clock 7) ∧ s.seq = .aRead ∧
      ¬(s.sequencerMoves ∧ (s.seq = .aInit ∨ s.seq = .aRead))) ∧
    (∃ s t : State, step s = .next t ∧ s.agenda = [] ∧ s.seq = .aInit ∧
      ¬(s.sequencerMoves ∧ (s.seq = .aInit ∨ s.seq = .aRead))) ∧
    (∃ s t : State, step s = .next t ∧ s.sequencerMoves ∧ s.agenda.head? ≠ some .reset ∧
      ¬(s.sequencerMoves ∧ (s.seq = .aInit ∨ s.seq = .aRead))) :=
  ⟨⟨{ at_ .aRead [] [[1]] with agenda := [.clock 7] }, { at_ .aRead [] [[1]] with clk := 5007 }, rfl, by decide⟩,
    ⟨at_ .aInit [] [], (at_ .aInit [] []).tickFree, rfl, by decide⟩,
    ⟨{ at_ .cWrite [3] [] with agenda := [.block] }, cWriteStep (at_ .cWrite [3] []), rfl, by decide⟩⟩

/-- Another agent's turn at L_SCAN on a full buffer, and the sequencer's move on a partial one. -/
theorem witness_OnlyLocateWritesTheWindow :
    (∃ s t : State, step s = .next t ∧ s.agenda.head? = some (.clock 7) ∧ s.seq = .lScan ∧ s.filled = s.cfg.capacity ∧
      ¬(s.sequencerMoves ∧ s.seq = .lScan ∧ s.filled = s.cfg.capacity)) ∧
    (∃ s t : State, step s = .next t ∧ s.sequencerMoves ∧ s.seq = .lScan ∧ s.agenda.head? ≠ some .reset ∧
      ¬(s.sequencerMoves ∧ s.seq = .lScan ∧ s.filled = s.cfg.capacity)) :=
  ⟨⟨{ scan [] with agenda := [.clock 7] }, { scan [] with clk := 5007 }, rfl, by decide⟩,
    ⟨{ at_ .lScan [] [] with agenda := [.block] }, (at_ .lScan [] []).mark .partialDecode, rfl, by decide⟩⟩

theorem witness_ParametersNeverChange : ∃ s t : State, step s = .next t :=
  ⟨{ at_ .cWrite [3] [] with agenda := [.block] }, cWriteStep (at_ .cWrite [3] []), rfl⟩

theorem witness_OldResultsDoNotLeakIntoACycle_operations :
    (∃ s t : State, s.seq = .idle ∧ exec (HostOp.instr .locate) s = .next t) ∧
    (∃ s t : State, s.seq ≠ .idle ∧ exec .trigger s = .next t) ∧
    (∃ s t : State, s.seq ≠ .idle ∧ exec .capinit s = .next t) ∧
    (∃ s t : State, s.seq = .aInit ∧ exec .accumulate s = .next t) ∧
    (∃ s t : State, s.seq = .aRead ∧ exec .accumulate s = .next t) ∧
    (∃ s t : State, s.seq = .aCheck ∧ exec .accumulate s = .next t) :=
  ⟨⟨{ small with startValid := true, endValid := true }, _, rfl, rfl⟩, ⟨at_ .tHigh [3] [], _, by decide, rfl⟩,
    ⟨at_ .cWrite [3] [], _, by decide, rfl⟩, ⟨at_ .aInit [] [], _, rfl, rfl⟩, ⟨at_ .aRead [] [[0x06]], _, rfl, rfl⟩,
    ⟨{ at_ .aCheck [] [] with filled := 4 }, _, rfl, rfl⟩⟩

/-- L_SCAN on a full buffer, with both edges, one edge and none, and on a partial one. -/
theorem witness_OldResultsDoNotLeakIntoACycle_locate :
    (∃ s t : State, s.seq = .lScan ∧ exec .locate s = .next t ∧ s.filled = s.cfg.capacity ∧ t.endValid = true) ∧
    (∃ s t : State, s.seq = .lScan ∧ exec .locate s = .next t ∧ s.filled = s.cfg.capacity ∧ t.err = .noPulseEnd) ∧
    (∃ s t : State, s.seq = .lScan ∧ exec .locate s = .next t ∧ s.filled = s.cfg.capacity ∧ t.err = .noPulseStart) ∧
    (∃ s t : State, s.seq = .lScan ∧ exec .locate s = .next t ∧ s.filled ≠ s.cfg.capacity) :=
  ⟨⟨scan [(1, 0x06), (3, 0x30)], lScanStep (scan [(1, 0x06), (3, 0x30)]), rfl, rfl, by decide⟩,
    ⟨scan [(1, 0x81)], lScanStep (scan [(1, 0x81)]), rfl, rfl, by decide⟩,
    ⟨scan [], lScanStep (scan []), rfl, rfl, by decide⟩,
    ⟨at_ .lScan [] [], lScanStep (at_ .lScan [] []), rfl, rfl, by decide⟩⟩

/-- The idle small block at the host's turn, its program at a place with some lines left. -/
def hosting (pc : HostPc) (lines : List HostLine) : State :=
  { small with agenda := [.host], hostPc := pc, program := lines }

theorem witness_HostProgramTakesItsLines_idle :
    ∃ a b c d e f : State,
      (a.agenda = [.host] ∧ a.seq = .idle ∧ a.hostPc = .ready ∧ a.program = []) ∧
      (b.agenda = [.host] ∧ b.seq = .idle ∧ b.hostPc = .ready ∧ b.program = [.op .locate, .run]) ∧
      (c.agenda = [.host] ∧ c.seq = .idle ∧ c.hostPc = .ready ∧ c.program = [.cycle, .run]) ∧
      (d.agenda = [.host] ∧ d.seq = .idle ∧ d.hostPc = .ready ∧ d.program = [.run]) ∧
      (e.agenda = [.host] ∧ e.seq = .idle ∧ e.hostPc = .waitOp) ∧
      (f.agenda = [.host] ∧ f.seq = .idle ∧ f.hostPc = .present .accumulate true) :=
  ⟨hosting .ready [], hosting .ready [.op .locate, .run], hosting .ready [.cycle, .run], hosting .ready [.run],
    hosting .waitOp [], hosting (.present .accumulate true) [], by decide⟩

theorem witness_HostProgramTakesItsLines_others :
    (∃ s : State, s.agenda = [.host] ∧ s.seq ≠ .idle ∧ s.hostPc = .ready) ∧
    (∃ s : State, s.agenda = [] ∧ s.untilTick ≠ 0 ∧ s.hostEnabled = true) ∧
    (∃ s : State, s.agenda = [.start [.run]] ∧ s.seq ≠ .idle ∧ s.hostPc = .await .trigger true) :=
  ⟨⟨{ hosting .ready [.run] with seq := .tSleep }, by decide⟩,
    ⟨{ hosting .ready [.run] with agenda := [], untilTick := 1 }, by decide⟩,
    ⟨{ hosting (.await .trigger true) [] with seq := .tSleep, agenda := [.start [.run]] }, by decide⟩⟩

theorem witness_CycleAbortsAtTheFirstError :
    ∃ (s : State) (o : HostOp) (loop : Bool) (rest : List Turn),
      s.agenda = .host :: rest ∧ s.hostPc = .await o loop ∧ s.seq = .idle ∧ s.err ≠ .ok :=
  ⟨{ small with agenda := [.host], hostPc := .await .trigger true, err := .transport }, .trigger, true, [], by decide⟩

theorem witness_RunPollsAtTheCycleBoundary :
    (∃ (s : State) (rest : List Turn), s.agenda = .host :: rest ∧ s.seq = .idle ∧ s.hostPc = .poll ∧ s.cancel = true) ∧
    (∃ (s : State) (rest : List Turn), s.agenda = .host :: rest ∧ s.seq = .idle ∧ s.hostPc = .poll ∧ s.cancel = false) ∧
    (∃ (s : State) (rest : List Turn), s.agenda = .host :: rest ∧ s.seq = .idle ∧ s.hostPc = .report) :=
  ⟨⟨{ small with agenda := [.host], hostPc := .poll, cancel := true }, [], by decide⟩,
    ⟨{ small with agenda := [.host], hostPc := .poll, cancel := false }, [], by decide⟩,
    ⟨{ small with agenda := [.host], hostPc := .report }, [], by decide⟩⟩

theorem witness_RunPollsAtTheCycleBoundary_cancel :
    ∃ (s : State) (rest : List Turn), s.agenda = .cancel false :: rest ∧ s.cancel = true :=
  ⟨{ small with agenda := [.cancel false], cancel := true }, [], rfl, rfl⟩

/-- At the report of a run, where a raised cancellation is not looked at. -/
theorem witness_RunPollsAtTheCycleBoundary_elsewhere :
    ∃ s t : State, s.hostPc ≠ .poll ∧ (∀ l, s.agenda.head? ≠ some (.cancel l)) ∧ step s = .next t ∧ s.cancel = true :=
  ⟨{ small with agenda := [.host], hostPc := .report, cancel := true }, { small with hostPc := .poll, cancel := true },
    by decide, by decide, rfl, rfl⟩

end Sys2Proof.Tests
end

