-- ==== Sys2Proof/Proofs/Scope.lean ====
section
/-! PROOFS. The scope's statements (spec/00_scope.md): the step is total, the host reads what the registers hold, and only
the environment moves the clock. -/

namespace Sys2Proof.Machine

open Sys2Proof

/-! ### Totality of the step (R19) -/

/-- An op code, busy block or not, reserved code or not, has a next state (R97, R104). -/
theorem presentOp_next (op : Byte) (s : State) : ∃ t, presentOp op s = .next t := by
  unfold presentOp
  split
  · exact ⟨_, rfl⟩
  · split
    · exact exec_next _ s
    · exact ⟨_, rfl⟩

/-- The sequencer's turn has a next state, in IDLE too. -/
theorem blockStep_next (s : State) : ∃ t, blockStep s = .next t := by
  unfold blockStep
  split
  · exact exec_next _ s
  · exact ⟨_, rfl⟩

/-- Every move of the host's program is a presented op code or a move of its own fields (R100 to R102). -/
theorem hostMove_next (s : State) : ∃ t, hostMove s = .next t := by
  unfold hostMove
  split
  · exact ⟨_, rfl⟩
  · split
    · split
      · exact ⟨_, rfl⟩
      · exact presentOp_next _ _
      · exact ⟨_, rfl⟩
      · exact ⟨_, rfl⟩
    · exact ⟨_, rfl⟩
    · exact presentOp_next _ _
    · split
      · split <;> exact ⟨_, rfl⟩
      · exact ⟨_, rfl⟩
    · split <;> exact ⟨_, rfl⟩
    · exact ⟨_, rfl⟩

/-- A frame of another agent has a next state, whatever its opcode (R209). -/
theorem frameTurn_next (f : Frame) (s : State) : ∃ t, frameTurn f s = .next t := by
  unfold frameTurn
  split
  · exact ⟨_, rfl⟩
  · split
    · exact exec_next _ s
    · exact ⟨_, rfl⟩

/-- Every scheduled turn has a next state. -/
theorem takeTurn_next (u : Turn) (s : State) : ∃ t, takeTurn u s = .next t := by
  cases u with
  | block => exact blockStep_next s
  | present op => exact presentOp_next op s
  | host => exact hostMove_next s
  | frame f => exact frameTurn_next f s
  | clock | readReg | readBuf | reset | cancel | start => exact ⟨_, rfl⟩

/-- With nothing scheduled somebody moves, the clock if nobody else. -/
theorem freeTurn_next (s : State) : ∃ t, freeTurn s = .next t := by
  unfold freeTurn
  split
  · exact ⟨_, rfl⟩
  · split
    · exact blockStep_next _
    · split
      · exact hostMove_next _
      · exact ⟨_, rfl⟩

/-- Settles O47: a step is a scheduled turn or the free turn, and each of them has a next state. -/
theorem noStateStopsTheMachine : Obligations.NoStateStopsTheMachine := by
  intro s
  rcases step_cases s with ⟨u, rest, -, hs⟩ | ⟨-, hs⟩ <;> rw [hs]
  · exact takeTurn_next u _
  · exact freeTurn_next s

/-! ### The registers' content (R26) -/

/-- FILLED loses nothing in its 17 bits (R13, R32). -/
theorem filledWord_toNat {s : State} (h : s.filled < 2 ^ 17) : s.filledWord.toNat = s.filled := by
  simp only [State.filledWord, BitVec.toNat_setWidth, BitVec.toNat_ofNat]
  omega

/-- A bit index loses nothing in its 19 bits, read as 32 (R13, R26). -/
theorem bitIndexWord_toNat {v : Nat} (h : v < 2 ^ 19) : ((BitVec.ofNat 19 v).setWidth 32).toNat = v := by
  simp only [BitVec.toNat_setWidth, BitVec.toNat_ofNat]
  omega

/-- CONFIG is `N-1` with `TRIG_BIT` above it and nothing above that (R35). -/
theorem configWord_toNat (c : Cfg) : (Cfg.configWord c).toNat = (c.capacity - 1) + 65536 * c.trigBit.val := by
  have htop : (0#13 ++ BitVec.ofNat 3 c.trigBit.val).toNat = c.trigBit.val := by
    simp only [BitVec.toNat_append, BitVec.toNat_ofNat, Nat.zero_mod, Nat.zero_shiftLeft, Nat.zero_or]
    exact Nat.mod_eq_of_lt c.trigBit.isLt
  rw [Cfg.configWord, BitVec.toNat_append, htop, ← Nat.shiftLeft_add_eq_or_of_lt c.lenM1.isLt, Nat.shiftLeft_eq,
    Cfg.capacity]
  omega

/-- While valid, START_BIT reads as its index (R33). -/
theorem startBitWord_valid {s : State} {v : Nat} (hv : s.startValid = true) (hs : s.startBit = some v) :
    s.startBitWord = some ((BitVec.ofNat 19 v).setWidth 32) := by
  simp [State.startBitWord, hv, hs]

/-- While not valid, START_BIT reads as undefined (R48). -/
theorem startBitWord_invalid {s : State} (hv : s.startValid = false) : s.startBitWord = none := by
  simp [State.startBitWord, hv]

/-- While valid, END_BIT reads as its index (R34). -/
theorem endBitWord_valid {s : State} {v : Nat} (hv : s.endValid = true) (hs : s.endBit = some v) :
    s.endBitWord = some ((BitVec.ofNat 19 v).setWidth 32) := by
  simp [State.endBitWord, hv, hs]

/-- While not valid, END_BIT reads as undefined (R48). -/
theorem endBitWord_invalid {s : State} (hv : s.endValid = false) : s.endBitWord = none := by
  simp [State.endBitWord, hv]

/-- Register 0 is STATUS (R26). -/
theorem register_status (s : State) : s.register 0 = some (some (s.statusWord.setWidth 32)) := rfl

/-- Register 1 is FILLED (R26). -/
theorem register_filled (s : State) : s.register 1 = some (some s.filledWord) := rfl

/-- Register 2 is START_BIT (R26). -/
theorem register_startBit (s : State) : s.register 2 = some s.startBitWord := rfl

/-- Register 3 is END_BIT (R26). -/
theorem register_endBit (s : State) : s.register 3 = some s.endBitWord := rfl

/-- Register 4 is CONFIG (R26). -/
theorem register_config (s : State) : s.register 4 = some (some (Cfg.configWord s.cfg)) := rfl

/-- Settles O41, register by register. -/
theorem registersHoldTheirContent : Obligations.RegistersHoldTheirContent := by
  intro s
  refine ⟨register_status s, fun h => ⟨_, register_filled s, filledWord_toNat h⟩, fun hv => ?_, fun v hv hs h => ?_,
    fun hv => ?_, fun v hv hs h => ?_, ⟨_, register_config s, configWord_toNat s.cfg⟩⟩
  · rw [register_startBit, startBitWord_invalid hv]
  · exact ⟨_, by rw [register_startBit, startBitWord_valid hv hs], bitIndexWord_toNat h⟩
  · rw [register_endBit, endBitWord_invalid hv]
  · exact ⟨_, by rw [register_endBit, endBitWord_valid hv hs], bitIndexWord_toNat h⟩

/-! ### Who moves the clock (R39, R206) -/

/-- With nothing scheduled, the clock advances when no move is granted or nobody else can move (logs 6 and 26). -/
theorem step_tickFree {s : State} (h : s.agenda = [])
    (he : s.untilTick = 0 ∨ (s.blockEnabled = false ∧ s.hostEnabled = false)) : step s = .next s.tickFree := by
  by_cases hg : s.untilTick = 0
  · exact step_free_tick h hg
  · obtain ⟨hb, hh⟩ := he.resolve_left hg
    simp [step, h, freeTurn, hg, hb, hh]

/-- A step that is neither a clock turn nor the clock's free move keeps `CLK` (R206). -/
theorem step_keeps_clk {s t : State} (h : step s = .next t) (hc : ∀ d, s.agenda.head? ≠ some (.clock d))
    (hf : ¬(s.agenda = [] ∧ (s.untilTick = 0 ∨ (s.blockEnabled = false ∧ s.hostEnabled = false)))) :
    t.clk = s.clk := by
  cases step_inversion h with
  | clock d rest hm => exact absurd (by simp [hm]) (hc d)
  | tick d g hm he => exact absurd ⟨hm, he⟩ hf
  | micro o u rest g hm hu ho ht => exact (exec_schedule (s := moved s rest g) ho ht).1
  | reset | host | mark | refuse | issue | frame =>
    subst_vars
    simp

/-- Settles O49: the clock turn, the clock's free move, and the other steps. -/
theorem onlyTheEnvironmentMovesTheClock : Obligations.OnlyTheEnvironmentMovesTheClock := by
  intro s
  refine ⟨fun d rest h => step_clock h, fun h he => ?_, fun t => step_keeps_clk⟩
  exact ⟨_, _, _, Nat.lt_add_of_pos_right (Nat.succ_pos _), step_tickFree h he⟩

end Sys2Proof.Machine
end

