-- ==== Sys2Proof/Proofs/State.lean ====
section
/-! PROOFS. The state's statements (spec/10_state.md): one inversion for the micro-steps of all four operations, the
invariant that every step keeps, and what a step may write of each part of the state. -/

namespace Sys2Proof.Machine

open Sys2Proof

/-! ### The micro-step, inverted once for the four operations (R24) -/

/-- The frame that a micro-state writes to the command port (R91): T_HIGH, T_LOW and C_WRITE write one. -/
def Seq.frame (c : Cfg) : Seq → Option Frame
  | .tHigh => some (frameHigh c)
  | .tLow => some (frameLow c)
  | .cWrite => some (frameCap c)
  | .idle | .tSleep | .aInit | .aRead | .aCheck | .lScan => none

/-- What a micro-step of the operation in progress can do (R113 to R117, R133, R143 to R146, R178). -/
inductive MicroCase (s t : State) : Prop
  /-- The first frame went out whole: the sleep begins (R115). -/
  | sleepStarts (hs : s.seq = .tHigh)
      (ht : t = { s.cmdWrite (frameHigh s.cfg) with wake := some (s.clk + 10000), seq := .tSleep })
  /-- The second frame or the capture frame went out whole: the operation is complete (R117, R133). -/
  | frameDone (f : Frame) (hf : Seq.frame s.cfg s.seq = some f) (hs : s.seq ≠ .tHigh) (ht : t = (s.cmdWrite f).complete)
  /-- A frame did not go out whole: the error exit (R114, R135). -/
  | frameFailed (f : Frame) (hf : Seq.frame s.cfg s.seq = some f) (ht : t = (s.cmdWrite f).raise .transport)
  /-- The sleep holds (R116). -/
  | held (hs : s.seq = .tSleep) (ht : t = s)
  /-- The sleep is over (R116). -/
  | sleepEnds (hs : s.seq = .tSleep) (hw : s.wakeTime ≤ s.clk) (ht : t = { s with seq := .tLow })
  /-- The buffer is zero-filled and the time starts (R143). -/
  | emptied (hs : s.seq = .aInit) (ht : t = { s with buf := [], filled := 0, t0 := some s.clk, seq := .aRead })
  /-- The source returned too much (R150). -/
  | overrun (hs : s.seq = .aRead) (ht : t = s.dropRead.mark .sourceOverrun)
  /-- The source's bytes were appended (R144). -/
  | appended (hs : s.seq = .aRead) (hl : s.nextRead.length ≤ s.cfg.capacity - s.filled)
      (ht : t = { s.dropRead with
        buf := Memory.writeBytes s.buf s.filled s.nextRead, filled := s.filled + s.nextRead.length, seq := .aCheck })
  /-- The buffer is full: the operation is complete (R146). -/
  | full (hs : s.seq = .aCheck) (hf : s.filled = s.cfg.capacity) (ht : t = s.complete)
  /-- The deadline has passed (R146). -/
  | timeout (hs : s.seq = .aCheck) (hf : s.filled ≠ s.cfg.capacity) (ht : t = s.raise .timeout)
  /-- The next read follows (R146). -/
  | readsAgain (hs : s.seq = .aCheck) (hf : s.filled ≠ s.cfg.capacity) (ht : t = { s with seq := .aRead })
  /-- LOCATE on a partial buffer (R168). -/
  | partialBuffer (hs : s.seq = .lScan) (ht : t = s.mark .partialDecode)
  /-- No start edge (R177). -/
  | startMissing (hs : s.seq = .lScan) (hf : s.filled = s.cfg.capacity) (ht : t = noStart s)
  /-- A start edge `a` and no end edge (R176). -/
  | endMissing (a : Nat) (hs : s.seq = .lScan) (hf : s.filled = s.cfg.capacity) (ha : 1 ≤ a)
      (hn : a < 8 * s.cfg.capacity) (ht : t = noEnd a s)
  /-- The window from `a` to `b` (R177). -/
  | window (a b : Nat) (hs : s.seq = .lScan) (hf : s.filled = s.cfg.capacity) (ha : 1 ≤ a) (hab : a < b) (hb : 8 ≤ b)
      (hn : b < 8 * s.cfg.capacity) (ht : t = found a b s)

/-- The inversion of a micro-step, from the cases of the four meanings. -/
theorem exec_inversion {o : HostOp} {s t : State} (ho : Seq.op s.seq = some o) (h : exec o.instr s = .next t) :
    MicroCase s t := by
  cases o with
  | trigger =>
    rcases execTrigger_cases h ho with
      ⟨hs, -, ht⟩ | ⟨hs, -, ht⟩ | ⟨hs, -, ht⟩ | ⟨hs, hw, ht⟩ | ⟨hs, -, ht⟩ | ⟨hs, -, ht⟩
    · exact .sleepStarts hs ht
    · exact .frameFailed _ (by rw [hs]; rfl) ht
    · exact .held hs ht
    · exact .sleepEnds hs hw ht
    · exact .frameDone _ (by rw [hs]; rfl) (by simp [hs]) ht
    · exact .frameFailed _ (by rw [hs]; rfl) ht
  | capinit =>
    obtain ⟨hs, ⟨-, ht⟩ | ⟨-, ht⟩⟩ := execCapinit_cases h ho
    · exact .frameDone _ (by rw [hs]; rfl) (by simp [hs]) ht
    · exact .frameFailed _ (by rw [hs]; rfl) ht
  | accumulate =>
    rcases execAccumulate_cases h ho with
      ⟨hs, ht⟩ | ⟨hs, -, ht⟩ | ⟨hs, hl, ht⟩ | ⟨hs, hf, ht⟩ | ⟨hs, hf, -, ht⟩ | ⟨hs, hf, -, ht⟩
    · exact .emptied hs ht
    · exact .overrun hs ht
    · exact .appended hs hl ht
    · exact .full hs hf ht
    · exact .timeout hs hf ht
    · exact .readsAgain hs hf ht
  | locate =>
    obtain ⟨hs, ⟨-, ht⟩ | ⟨hf, ht⟩ | ⟨hf, i, hi, h0, ha, ht⟩ | ⟨hf, i, j, hij, hj, h0, ha, hb, ht⟩⟩ :=
      execLocate_cases h ho
    · exact .partialBuffer hs ht
    · exact .startMissing hs hf ht
    · exact .endMissing _ hs hf (Nat.pos_of_ne_zero h0) (by omega) ht
    · have hlow : 8 * j ≤ bitIndex s.buf j := Nat.le_add_right _ _
      exact .window _ _ hs hf (Nat.pos_of_ne_zero h0) (by omega) (by omega) (by omega) ht

/-- TRIGGER and CAPINIT are the operations that write frames. -/
theorem op_of_frame {c : Cfg} {q : Seq} {f : Frame} (h : Seq.frame c q = some f) :
    Seq.op q = some .trigger ∨ Seq.op q = some .capinit := by
  cases q <;> simp [Seq.frame, Seq.op] at h ⊢

/-- `L[7:0]` is `L mod 256` (R90). -/
theorem lengthLow_eq (l : BitVec 16) : lengthLow l = BitVec.ofNat 8 (l.toNat % 256) := by
  apply BitVec.eq_of_toNat_eq
  simp [lengthLow]

/-- `L[15:8]` is `L / 256` (R90). -/
theorem lengthHigh_eq (l : BitVec 16) : lengthHigh l = BitVec.ofNat 8 (l.toNat / 256) := by
  apply BitVec.eq_of_toNat_eq
  simp [lengthHigh, Nat.shiftRight_eq_div_pow]

/-- The block's frames are FRAME_HIGH, FRAME_LOW and FRAME_CAP of R91. -/
theorem frame_bytes {c : Cfg} {q : Seq} {f : Frame} (h : Seq.frame c q = some f) :
    f = ⟨0x80, 0xFF, 1#8 <<< c.trigBit.val⟩ ∨
    f = ⟨0x80, 0xFF#8 &&& ~~~(1#8 <<< c.trigBit.val), 1#8 <<< c.trigBit.val⟩ ∨
    f = ⟨0x2C, BitVec.ofNat 8 ((c.capacity - 1) % 256), BitVec.ofNat 8 ((c.capacity - 1) / 256)⟩ := by
  cases q <;> simp only [Seq.frame, reduceCtorEq, Option.some.injEq] at h <;> subst h
  · exact .inl rfl
  · exact .inr (.inl rfl)
  · refine .inr (.inr ?_)
    simp [frameCap, captureFrame, lengthLow_eq, lengthHigh_eq, Cfg.capacity, Config.opCapture]

/-! ### The invariant of the block's state, kept by every update -/

namespace State.Inv

variable {s : State}

/-- LAST_OP is 3 under ACCUMULATE alone (R31). -/
theorem number_eq_three {o : HostOp} : HostOp.number o = 3 ↔ o = .accumulate := by cases o <;> decide

/-- LAST_OP is 4 under LOCATE alone (R31). -/
theorem number_eq_four {o : HostOp} : HostOp.number o = 4 ↔ o = .locate := by cases o <;> decide

/-! ### The shared updates -/

/-- A free or scheduled move touches the schedule alone. -/
theorem moved (h : s.Inv) (rest : List Turn) (g : Nat) : (moved s rest g).Inv := { h with }

/-- The host's fields are not the block's (R20). -/
theorem hostFields (h : s.Inv) (rest : List Turn) (g : Nat) (saw : Option HostReply) (pc : HostPc)
    (lines : List HostLine) (c : Bool) : (hostFields s rest g saw pc lines c).Inv := { h with }

/-- The clock only grows (R206). -/
theorem advance (h : s.Inv) (d : Nat) : ({ s with clk := s.clk + d } : State).Inv :=
  { h with
    wakePassed := fun hs w hw => Nat.le_add_right_of_le (h.wakePassed hs w hw)
    t0Past := fun t ht => Nat.le_add_right_of_le (h.t0Past t ht) }

/-- A mark touches FAULTS alone. -/
theorem mark (h : s.Inv) (r : Fault) : (s.mark r).Inv := { h with }

/-- A refusal touches REFUSED alone. -/
theorem refuse (h : s.Inv) : s.refuse.Inv := { h with }

/-- A used-up count is the environment's (R17). -/
theorem dropCount (h : s.Inv) : s.dropCount.Inv := by
  unfold State.dropCount
  split <;> exact { h with }

/-- A used-up answer of the source is the environment's (R69). -/
theorem dropRead (h : s.Inv) : s.dropRead.Inv := by
  unfold State.dropRead
  split <;> exact { h with }

/-- A reset clears the block, and the adapter of a busy block (R230, R233). -/
theorem blockReset (h : s.Inv) : s.blockReset.Inv where
  bufCanonical := Memory.zeroed_wf
  bufBelowFilled := by simp
  filledInRange := Nat.zero_le _
  curOpMatches := rfl
  runningFlags := fun _ ho => by cases ho
  transportOp := fun he => by cases he
  timeoutOp := fun he => by cases he
  noPulseStartOp := fun he => by cases he
  noPulseEndOp := fun he => by cases he
  startInRange := fun hv => by cases hv
  endInRange := fun hv => by cases hv
  accumulatedFull := fun _ hl => absurd hl (by simp)
  locatedValid := fun _ hl => absurd hl (by simp)
  wakeDefined := by simp
  wakePassed := by simp
  t0Defined := by simp
  t0Past := by simp
  readRoom := by simp
  lostUnknown := by
    cases hb : s.busy with
    | true => simp [hb]
    | false => simpa [hb] using h.lostUnknown
  gpioTogether := by
    cases hb : s.busy with
    | true => simp [hb]
    | false => simpa [hb] using h.gpioTogether
  streamingInRange := by
    cases hb : s.busy with
    | true => simp [hb]
    | false => simpa [hb] using h.streamingInRange

/-- An issue starts the operation with ERR = 0 and no window (R103). -/
theorem issue (h : s.Inv) (o : HostOp) : (s.issue o).Inv :=
  { h with
    curOpMatches := by cases o <;> rfl
    runningFlags := fun o' ho => by cases o <;> cases ho <;> exact ⟨rfl, rfl, rfl, rfl⟩
    transportOp := fun he => by cases he
    timeoutOp := fun he => by cases he
    noPulseStartOp := fun he => by cases he
    noPulseEndOp := fun he => by cases he
    startInRange := fun hv => by cases hv
    endInRange := fun hv => by cases hv
    accumulatedFull := fun hs => by cases o <;> cases hs
    locatedValid := fun hs => by cases o <;> cases hs
    wakeDefined := fun hs => by cases o <;> rcases hs with hs | hs <;> cases hs
    wakePassed := fun hs => by cases o <;> cases hs
    t0Defined := fun hs => by cases o <;> rcases hs with hs | hs <;> cases hs
    readRoom := fun hs => by cases o <;> cases hs }

/-- A command write touches the adapter alone, which is lost, takes the frame's effect or stays (R209 to R211). -/
theorem cmdWrite (h : s.Inv) (f : Frame) : (s.cmdWrite f).Inv := by
  have hd := h.dropCount
  rcases cmdWrite_cases f s with
    ⟨-, hw⟩ | ⟨-, -, hw⟩ | ⟨-, ha, v, d, -, hw⟩ | ⟨-, ha, l, -, hw⟩ | ⟨-, -, -, hw⟩ <;> rw [hw]
  · exact { hd with lostUnknown := by simp, gpioTogether := rfl, streamingInRange := by simp }
  · exact { hd with lostUnknown := by simp, gpioTogether := rfl, streamingInRange := by simp }
  · exact { hd with lostUnknown := by simp [ha], gpioTogether := rfl }
  · exact { hd with lostUnknown := by simp [ha], streamingInRange := by rintro _ ⟨⟩; have := l.isLt; omega }
  · exact { hd with lostUnknown := by simp, gpioTogether := rfl, streamingInRange := by simp }

/-! ### The end of an operation (R105, R198) -/

/-- The conditions on the results in an idle block: which operation an error belongs to, and where valid edges lie. -/
structure Results (t : State) : Prop where
  transportOp : t.err = .transport → t.lastOp = 1 ∨ t.lastOp = 2
  timeoutOp : t.err = .timeout → t.lastOp = 3 ∧ t.filled < t.cfg.capacity
  noPulseStartOp : t.err = .noPulseStart → t.lastOp = 4 ∧ t.startValid = false ∧ t.endValid = false
  noPulseEndOp : t.err = .noPulseEnd → t.lastOp = 4 ∧ t.startValid = true ∧ t.endValid = false
  startInRange : t.startValid = true → t.lastOp = 4 ∧ ∃ v, t.startBit = some v ∧ 1 ≤ v ∧ v < 8 * t.cfg.capacity
  endInRange : t.endValid = true → t.err = .ok ∧ t.startValid = true ∧
    ∃ v e, t.startBit = some v ∧ t.endBit = some e ∧ v < e ∧ 8 ≤ e ∧ e < 8 * t.cfg.capacity
  accumulatedFull : t.lastOp = 3 → t.err = .ok → t.filled = t.cfg.capacity
  locatedValid : t.lastOp = 4 → t.err = .ok → t.endValid = true

/-- The end of an operation writes SEQ, CUR_OP and its results; the conditions on the results are all that is left. -/
theorem ended (h : s.Inv) {t : State} (hr : Results t)
    (ht : ∃ e a b x y, t = { s with
      err := e, startValid := a, endValid := b, startBit := x, endBit := y, curOp := 0#8, seq := .idle }) : t.Inv := by
  obtain ⟨e, a, b, x, y, rfl⟩ := ht
  exact { hr, h with
    curOpMatches := rfl
    runningFlags := fun _ ho => by cases ho
    accumulatedFull := fun _ => hr.accumulatedFull
    locatedValid := fun _ => hr.locatedValid
    wakeDefined := by simp
    wakePassed := by simp
    t0Defined := by simp
    readRoom := by simp }

/-- `complete` ends TRIGGER, CAPINIT, and an ACCUMULATE whose buffer is full. -/
theorem complete (h : s.Inv) {o : HostOp} (ho : Seq.op s.seq = some o) (hl : o ≠ .locate)
    (hf : o = .accumulate → s.filled = s.cfg.capacity) : s.complete.Inv := by
  obtain ⟨hop, he, hsv, hev⟩ := h.runningFlags o ho
  refine h.ended ?_ ⟨_, _, _, _, _, rfl⟩
  exact {
    transportOp := by simp [he]
    timeoutOp := by simp [he]
    noPulseStartOp := by simp [he]
    noPulseEndOp := by simp [he]
    startInRange := by simp [hsv]
    endInRange := by simp [hev]
    accumulatedFull := fun h3 _ => hf (number_eq_three.1 (hop.symm.trans h3))
    locatedValid := fun h4 => absurd (number_eq_four.1 (hop.symm.trans h4)) hl }

/-- A TransportError ends TRIGGER and CAPINIT (R191). -/
theorem raiseTransport (h : s.Inv) (ho : Seq.op s.seq = some .trigger ∨ Seq.op s.seq = some .capinit) :
    (s.raise .transport).Inv := by
  have hn : (s.lastOp = 1 ∨ s.lastOp = 2) ∧ s.startValid = false ∧ s.endValid = false := by
    rcases ho with ho | ho <;> obtain ⟨hop, -, hv⟩ := h.runningFlags _ ho
    · exact ⟨.inl hop, hv⟩
    · exact ⟨.inr hop, hv⟩
  obtain ⟨hop, hsv, hev⟩ := hn
  exact h.ended (by constructor <;> simp [hop, hsv, hev]) ⟨_, _, _, _, _, rfl⟩

/-- A TimeoutError ends an ACCUMULATE whose buffer is not full (R192). -/
theorem raiseTimeout (h : s.Inv) (ho : Seq.op s.seq = some .accumulate) (hf : s.filled ≠ s.cfg.capacity) :
    (s.raise .timeout).Inv := by
  obtain ⟨hop, -, hsv, hev⟩ := h.runningFlags _ ho
  have hlt : s.filled < s.cfg.capacity := Nat.lt_of_le_of_ne h.filledInRange hf
  exact h.ended (by constructor <;> simp [hop, hsv, hev, hlt, HostOp.number]) ⟨_, _, _, _, _, rfl⟩

/-- NoPulseStart ends a LOCATE with no valid edge (R193). -/
theorem noStart (h : s.Inv) (ho : Seq.op s.seq = some .locate) : (noStart s).Inv := by
  have hop : s.lastOp = 4 := (h.runningFlags _ ho).1
  exact h.ended (by constructor <;> simp [Machine.noStart, hop]) ⟨_, _, _, _, _, rfl⟩

/-- NoPulseEnd ends a LOCATE with a valid start edge (R194). -/
theorem noEnd (h : s.Inv) (ho : Seq.op s.seq = some .locate) {a : Nat} (ha : 1 ≤ a) (hn : a < 8 * s.cfg.capacity) :
    (noEnd a s).Inv := by
  have hop : s.lastOp = 4 := (h.runningFlags _ ho).1
  exact h.ended (by constructor <;> simp [Machine.noEnd, hop, ha, hn]) ⟨_, _, _, _, _, rfl⟩

/-- A found window lies in its ranges (R177, R183). -/
theorem found (h : s.Inv) (ho : Seq.op s.seq = some .locate) {a b : Nat} (ha : 1 ≤ a) (hab : a < b) (hb : 8 ≤ b)
    (hn : b < 8 * s.cfg.capacity) : (found a b s).Inv := by
  obtain ⟨hop, he, -⟩ := h.runningFlags _ ho
  have hop : s.lastOp = 4 := hop
  have han : a < 8 * s.cfg.capacity := hab.trans hn
  exact h.ended (by constructor <;> simp [Machine.found, hop, he, ha, hab, hb, hn, han]) ⟨_, _, _, _, _, rfl⟩

/-! ### The micro-states inside an operation (R24) -/

/-- SEQ may move to a micro-state of the same operation whose own conditions hold. -/
theorem goesOn (h : s.Inv) {o : HostOp} {q : Seq} (ho : Seq.op s.seq = some o) (hq : Seq.op q = some o)
    (hw : q = .tSleep ∨ q = .tLow → s.wake.isSome = true) (hp : q = .tLow → ∀ w, s.wake = some w → w ≤ s.clk)
    (ht : q = .aRead ∨ q = .aCheck → s.t0.isSome = true) (hr : q = .aRead → s.filled < s.cfg.capacity) :
    ({ s with seq := q } : State).Inv :=
  have hb : q ≠ .idle := by
    rintro rfl
    cases hq
  { h with
    curOpMatches := by simp [h.curOpMatches, ho, hq]
    runningFlags := fun o' ho' => h.runningFlags o' (ho.trans (hq.symm.trans ho'))
    accumulatedFull := fun hi => absurd hi hb
    locatedValid := fun hi => absurd hi hb
    wakeDefined := hw
    wakePassed := hp
    t0Defined := ht
    readRoom := hr }

/-- T_HIGH sets WAKE and begins the sleep (R115). -/
theorem sleepStarts (h : s.Inv) (hs : s.seq = .tHigh) (w : Nat) :
    ({ s with wake := some w, seq := .tSleep } : State).Inv :=
  have h' : ({ s with wake := some w } : State).Inv := { h with wakeDefined := by simp, wakePassed := by simp [hs] }
  h'.goesOn (o := .trigger) (by simp [hs, Seq.op]) rfl (by simp) (by simp) (by simp) (by simp)

/-- The sleep ends at or after WAKE (R116, R124). -/
theorem sleepEnds (h : s.Inv) (hs : s.seq = .tSleep) (hw : s.wakeTime ≤ s.clk) :
    ({ s with seq := .tLow } : State).Inv :=
  h.goesOn (o := .trigger) (by simp [hs, Seq.op]) rfl (fun _ => h.wakeDefined (.inl hs))
    (fun _ w hsome => by simpa [State.wakeTime, hsome] using hw) (by simp) (by simp)

/-- A_INIT: nothing is filled, and the time starts now (R143). -/
theorem emptied (h : s.Inv) (hs : s.seq = .aInit) :
    ({ s with buf := [], filled := 0, t0 := some s.clk, seq := .aRead } : State).Inv :=
  have he : s.err = .ok := (h.runningFlags .accumulate (by rw [hs]; rfl)).2.1
  have h' : ({ s with buf := [], filled := 0, t0 := some s.clk } : State).Inv :=
    { h with
      bufCanonical := Memory.zeroed_wf
      bufBelowFilled := by simp
      filledInRange := Nat.zero_le _
      timeoutOp := by simp [he]
      accumulatedFull := by simp [hs]
      t0Defined := by simp
      t0Past := by simp
      readRoom := by simp [hs] }
  h'.goesOn (o := .accumulate) (by simp [hs, Seq.op]) rfl (by simp) (by simp) (by simp) (fun _ => Nat.succ_pos _)

/-- A_READ: the answer stands below the new FILLED, which stays in range (R144, R145). -/
theorem appended (h : s.Inv) (hs : s.seq = .aRead) (hl : s.nextRead.length ≤ s.cfg.capacity - s.filled) :
    ({ s.dropRead with
      buf := Memory.writeBytes s.buf s.filled s.nextRead, filled := s.filled + s.nextRead.length
      seq := .aCheck } : State).Inv := by
  have he : s.err = .ok := (h.runningFlags .accumulate (by rw [hs]; rfl)).2.1
  have hroom := h.readRoom hs
  have h' : ({ s.dropRead with seq := .aCheck } : State).Inv :=
    h.dropRead.goesOn (o := .accumulate) (by simp [hs, Seq.op]) rfl (by simp) (by simp)
      (fun _ => by simpa using h.t0Defined (.inl hs)) (by simp)
  exact { h' with
    bufCanonical := Memory.writeBytes_wf h.bufCanonical _ _
    bufBelowFilled := fun c hc => by
      rcases Memory.mem_writeBytes hc with ⟨-, hlt⟩ | hc
      · exact hlt
      · exact Nat.lt_add_right _ (h.bufBelowFilled c hc)
    filledInRange := by simp only [dropRead_cfg]; omega
    timeoutOp := by simp [he]
    accumulatedFull := by simp
    readRoom := by simp }

/-- A_CHECK goes on to the next read only with room left (R144, R146). -/
theorem readsAgain (h : s.Inv) (hs : s.seq = .aCheck) (hf : s.filled ≠ s.cfg.capacity) :
    ({ s with seq := .aRead } : State).Inv :=
  h.goesOn (o := .accumulate) (by simp [hs, Seq.op]) rfl (by simp) (by simp) (fun _ => h.t0Defined (.inr hs))
    (fun _ => Nat.lt_of_le_of_ne h.filledInRange hf)

/-! ### The micro-step and the step -/

/-- Every micro-step of the operation in progress keeps the invariant. -/
theorem micro {t : State} (h : s.Inv) {o : HostOp} (ho : Seq.op s.seq = some o) (he : exec o.instr s = .next t) :
    t.Inv := by
  cases exec_inversion ho he with
  | sleepStarts hs ht => exact ht ▸ (h.cmdWrite _).sleepStarts (by simpa using hs) _
  | frameDone f hf hs ht =>
    subst ht
    have hw : o = .trigger ∨ o = .capinit := by simpa [ho] using op_of_frame hf
    rcases hw with rfl | rfl <;> exact (h.cmdWrite f).complete (by simpa using ho) (by simp) (by simp)
  | frameFailed f hf ht => exact ht ▸ (h.cmdWrite f).raiseTransport (by simpa using op_of_frame hf)
  | held hs ht => exact ht ▸ h
  | sleepEnds hs hw ht => exact ht ▸ h.sleepEnds hs hw
  | emptied hs ht => exact ht ▸ h.emptied hs
  | overrun hs ht => exact ht ▸ h.dropRead.mark _
  | appended hs hl ht => exact ht ▸ h.appended hs hl
  | full hs hf ht => exact ht ▸ h.complete (o := .accumulate) (by rw [hs]; rfl) (by simp) (fun _ => hf)
  | timeout hs hf ht => exact ht ▸ h.raiseTimeout (by rw [hs]; rfl) hf
  | readsAgain hs hf ht => exact ht ▸ h.readsAgain hs hf
  | partialBuffer hs ht => exact ht ▸ h.mark _
  | startMissing hs hf ht => exact ht ▸ h.noStart (by rw [hs]; rfl)
  | endMissing a hs hf ha hn ht => exact ht ▸ h.noEnd (by rw [hs]; rfl) ha hn
  | window a b hs hf ha hab hb hn ht => exact ht ▸ h.found (by rw [hs]; rfl) ha hab hb hn

/-- Every step keeps the invariant. -/
theorem step {t : State} (h : s.Inv) (hst : step s = .next t) : t.Inv := by
  cases step_inversion hst with
  | clock d rest hm ht => exact ht ▸ (h.moved rest s.untilTick).advance d
  | tick d g hm he ht =>
    subst ht
    exact { h.advance (d + 1) with }
  | reset rest hm ht => exact ht ▸ (h.moved rest s.untilTick).blockReset
  | host u rest g saw pc lines c hm hu hb ht => exact ht ▸ h.hostFields rest g saw pc lines c
  | mark r u rest pc lines hm hu ht => exact ht ▸ (h.hostFields rest s.untilTick s.hostSaw pc lines s.cancel).mark r
  | refuse u rest hm hu ht => exact ht ▸ (h.moved rest s.untilTick).refuse
  | issue o u rest g pc lines hm hu hi ht => exact ht ▸ (h.hostFields rest g s.hostSaw pc lines s.cancel).issue o
  | micro o u rest g hm hu ho ht => exact (h.moved rest g).micro ho ht
  | frame f rest hm hr ht => exact ht ▸ (h.moved rest s.untilTick).cmdWrite f

end State.Inv

/-- Settles O46: by the inversion of the step, one kept update per case. -/
theorem everyStepKeepsTheBlockConditions : Obligations.EveryStepKeepsTheBlockConditions :=
  fun _ _ h hst => h.step hst

/-! ### What a micro-step writes (R24) -/

section MicroStep

variable {o : HostOp} {s t : State}

/-- FAULTS with one more reason has that one and those it had (R46). -/
@[simp] theorem FaultSet.has_add (r r' : Fault) (f : FaultSet) :
    FaultSet.has r (FaultSet.add r' f) = (decide (r = r') || FaultSet.has r f) := by
  cases r <;> cases r' <;> rfl

/-- A command write never brings FRAME_SYNC back (R44). -/
theorem cmdWrite_frameSync_unknown (f : Frame) (h : s.frameSync = .unknown) : (s.cmdWrite f).frameSync = .unknown := by
  rcases cmdWrite_cases f s with ⟨-, hw⟩ | ⟨-, -, hw⟩ | ⟨-, ha, -⟩ | ⟨-, ha, -⟩ | ⟨-, ha, -⟩
  · rw [hw]
  · simp [hw, h]
  all_goals cases h.symm.trans ha

/-- A micro-step writes no parameter (R21). -/
theorem exec_keeps_cfg (ho : Seq.op s.seq = some o) (h : exec o.instr s = .next t) : t.cfg = s.cfg := by
  cases exec_inversion ho h <;> subst_vars <;> simp [noStart, noEnd, found]

/-- A micro-step keeps REFUSED and every reason in FAULTS (R46, R47). -/
theorem exec_keeps_marks (ho : Seq.op s.seq = some o) (h : exec o.instr s = .next t) :
    (∀ r, FaultSet.has r s.faults = true → FaultSet.has r t.faults = true) ∧ t.refused = s.refused := by
  cases exec_inversion ho h with
  | overrun | partialBuffer =>
    subst_vars
    simp +contextual
  | _ => subst_vars; simp [noStart, noEnd, found]

/-- A micro-step never brings FRAME_SYNC back (R44). -/
theorem exec_frameSync_unknown (ho : Seq.op s.seq = some o) (h : exec o.instr s = .next t)
    (hu : s.frameSync = .unknown) : t.frameSync = .unknown := by
  cases exec_inversion ho h with
  | sleepStarts hs ht => exact ht ▸ cmdWrite_frameSync_unknown _ hu
  | frameDone f hf hs ht => exact ht ▸ cmdWrite_frameSync_unknown f hu
  | frameFailed f hf ht => exact ht ▸ cmdWrite_frameSync_unknown f hu
  | _ => subst_vars; simp [noStart, noEnd, found, hu]

/-- Only A_INIT and A_READ write BUF and FILLED (R32, R41). -/
theorem exec_keeps_buffer (ho : Seq.op s.seq = some o) (h : exec o.instr s = .next t)
    (hq : ¬(s.seq = .aInit ∨ s.seq = .aRead)) : t.buf = s.buf ∧ t.filled = s.filled := by
  cases exec_inversion ho h with
  | emptied hs | overrun hs | appended hs => simp [hs] at hq
  | _ => subst_vars; simp [noStart, noEnd, found]

/-- Only L_SCAN on a full buffer writes the window fields (R33, R34). -/
theorem exec_keeps_window (ho : Seq.op s.seq = some o) (h : exec o.instr s = .next t)
    (hq : ¬(s.seq = .lScan ∧ s.filled = s.cfg.capacity)) : t.startBit = s.startBit ∧ t.endBit = s.endBit := by
  cases exec_inversion ho h with
  | startMissing hs hf | endMissing _ hs hf | window _ _ hs hf => exact absurd ⟨hs, hf⟩ hq
  | _ => subst_vars; simp

/-- A micro-step appends no call to CMDLOG, or one of the frame of its micro-state (R42, R91). -/
theorem exec_cmdlog (ho : Seq.op s.seq = some o) (h : exec o.instr s = .next t) :
    t.cmdlog = s.cmdlog ∨ ∃ f n, t.cmdlog = s.cmdlog ++ [(f, n)] ∧ Seq.frame s.cfg s.seq = some f := by
  cases exec_inversion ho h with
  | sleepStarts hs ht => exact .inr ⟨frameHigh s.cfg, s.nextCount, by simp [ht], by rw [hs]; rfl⟩
  | frameDone f hf hs ht => exact .inr ⟨f, s.nextCount, by simp [ht], hf⟩
  | frameFailed f hf ht => exact .inr ⟨f, s.nextCount, by simp [ht], hf⟩
  | _ => subst_vars; simp [noStart, noEnd, found]

/-- Only A_READ uses up an answer of the source (R69). -/
theorem exec_keeps_reads (ho : Seq.op s.seq = some o) (h : exec o.instr s = .next t) (hq : s.seq ≠ .aRead) :
    t.reads = s.reads := by
  cases exec_inversion ho h with
  | overrun hs | appended hs => exact absurd hs hq
  | _ => subst_vars; simp [noStart, noEnd, found]

/-- The pairs of R24: where SEQ goes from a micro-state when nothing goes wrong. -/
def Seq.successors : List (Seq × Seq) :=
  [(.tHigh, .tSleep), (.tSleep, .tLow), (.tLow, .idle), (.cWrite, .idle), (.aInit, .aRead), (.aRead, .aCheck),
    (.aCheck, .aRead), (.aCheck, .idle), (.lScan, .idle)]

/-- SEQ has moved to a successor, or from T_HIGH by the error exit (R24, R198). -/
def SeqMoves (s t : State) : Prop :=
  (s.seq, t.seq) ∈ Seq.successors ∨ (t.err = .transport ∧ (s.seq, t.seq) = (.tHigh, .idle))

/-- From T_LOW and C_WRITE the successor is IDLE, so that their error exit takes it too (R24). -/
theorem frame_successor {c : Cfg} {q : Seq} {f : Frame} (hf : Seq.frame c q = some f) (hq : q ≠ .tHigh) :
    (q, .idle) ∈ Seq.successors := by
  cases q <;> simp [Seq.frame, Seq.successors] at hf hq ⊢

/-- A micro-step moves SEQ; only a hold and the two faults of a micro-step leave it (R24, R116, R150, R168). -/
theorem exec_seq (ho : Seq.op s.seq = some o) (h : exec o.instr s = .next t) :
    SeqMoves s t ∨ (t = s ∧ s.seq = .tSleep) ∨
      (t.faults.sourceOverrun = true ∧ s.seq = .aRead ∧ t.seq = .aRead) ∨
      (t.faults.partialDecode = true ∧ s.seq = .lScan ∧ t.seq = .lScan) := by
  cases exec_inversion ho h with
  | held hs ht => exact .inr (.inl ⟨ht, hs⟩)
  | overrun hs ht => exact .inr (.inr (.inl (by simp [ht, hs, FaultSet.add])))
  | partialBuffer hs ht => exact .inr (.inr (.inr (by simp [ht, hs, FaultSet.add])))
  | frameDone f hf hs ht => exact .inl (.inl (by simpa [ht] using frame_successor hf hs))
  | frameFailed f hf ht =>
    by_cases hs : s.seq = .tHigh
    · exact .inl (.inr (by simp [ht, hs]))
    · exact .inl (.inl (by simpa [ht] using frame_successor hf hs))
  | sleepStarts hs | sleepEnds hs | emptied hs | appended hs | full hs | timeout hs | readsAgain hs | startMissing hs
  | endMissing _ hs | window _ _ hs =>
    subst_vars
    exact .inl (.inl (by simp [hs, Seq.successors, noStart, noEnd, found]))

end MicroStep

/-! ### What a step writes -/

section Step

variable {s t : State}

/-- Settles O56: no update of the step writes a parameter. -/
theorem parametersNeverChange : Obligations.ParametersNeverChange := by
  intro s t h
  cases step_inversion h with
  | micro o u rest g hm hu ho ht => exact exec_keeps_cfg (s := moved s rest g) ho ht
  | _ => subst_vars; simp

/-- Settles O38: a lost adapter stays lost through a command write and through a reset. -/
theorem frameSyncIsNeverRegained : Obligations.FrameSyncIsNeverRegained := by
  intro s t h hu
  cases step_inversion h with
  | micro o u rest g hm hu' ho ht => exact exec_frameSync_unknown (s := moved s rest g) ho ht hu
  | frame f rest hm hr ht => exact ht ▸ cmdWrite_frameSync_unknown f hu
  | _ => subst_vars; simp [hu]

/-- Settles O52: a step that is no reset adds marks and removes none. -/
theorem faultsAndRefusalsStay : Obligations.FaultsAndRefusalsStay := by
  intro s t h hr
  cases step_inversion h with
  | reset rest hm => simp [hm] at hr
  | mark =>
    subst_vars
    simp +contextual
  | micro o u rest g hm hu ho ht =>
    obtain ⟨hf, hrf⟩ := exec_keeps_marks (s := moved s rest g) ho ht
    exact ⟨hf, hrf.trans⟩
  | _ => subst_vars; simp

/-- Settles O54: of the updates of a step only the reset and two micro-steps write BUF and FILLED. -/
theorem onlyAccumulateWritesTheBuffer : Obligations.OnlyAccumulateWritesTheBuffer := by
  intro s t h hr hq
  cases step_inversion h with
  | reset rest hm => simp [hm] at hr
  | micro o u rest g hm hu ho ht =>
    exact exec_keeps_buffer (s := moved s rest g) ho ht fun hs => hq ⟨micro_sequencerMoves hm hu, hs⟩
  | _ => subst_vars; simp

/-- Settles O55: of the updates of a step only the reset and L_SCAN's on a full buffer write the window fields. -/
theorem onlyLocateWritesTheWindow : Obligations.OnlyLocateWritesTheWindow := by
  intro s t h hr hq
  cases step_inversion h with
  | reset rest hm => simp [hm] at hr
  | micro o u rest g hm hu ho ht =>
    exact exec_keeps_window (s := moved s rest g) ho ht fun hs => hq ⟨micro_sequencerMoves hm hu, hs⟩
  | _ => subst_vars; simp

/-- Every step that is neither the sequencer's move nor another agent's frame leaves the device, but for a reset, which
leaves CMDLOG and the scheduled answers (R42, R80). -/
theorem step_keeps_device (h : step s = .next t) (hq : ¬s.sequencerMoves)
    (hf : ∀ f, s.hostRuns = false → s.agenda.head? ≠ some (.frame f)) :
    t.cmdlog = s.cmdlog ∧ t.counts = s.counts ∧ t.reads = s.reads ∧
      (s.agenda.head? ≠ some .reset → t.frameSync = s.frameSync ∧ t.gpioVal = s.gpioVal ∧ t.gpioDir = s.gpioDir ∧
        t.streaming = s.streaming) := by
  cases step_inversion h with
  | reset rest hm ht =>
    subst ht
    exact ⟨rfl, rfl, rfl, fun hr => absurd (by simp [hm]) hr⟩
  | micro o u rest g hm hu ho ht => exact absurd (micro_sequencerMoves hm hu) hq
  | frame f rest hm hr => exact absurd (by simp [hm]) (hf f hr)
  | _ => subst_vars; simp

/-- Where the sequencer moves, CMDLOG grows by a call of its micro-state's frame, or not at all (R42, R91). -/
theorem step_sequencer_device (h : step s = .next t) (hq : s.sequencerMoves) :
    t.cmdlog = s.cmdlog ∨ ∃ f n, t.cmdlog = s.cmdlog ++ [(f, n)] ∧ Seq.frame s.cfg s.seq = some f := by
  cases step_inversion h with
  | micro o u rest g hm hu ho ht => exact exec_cmdlog (s := moved s rest g) ho ht
  | frame f rest hm hr => simp [State.sequencerMoves, hm] at hq
  | _ => subst_vars; simp

/-- Outside A_READ no step uses up an answer of the source (R69). -/
theorem step_keeps_reads (h : step s = .next t) (hq : s.seq ≠ .aRead) : t.reads = s.reads := by
  cases step_inversion h with
  | micro o u rest g hm hu ho ht => exact exec_keeps_reads (s := moved s rest g) ho ht hq
  | _ => subst_vars; simp

/-- Settles O53: the sequencer's move appends a frame of its micro-state, and the other moves leave the device. -/
theorem onlyTheBlockUsesTheDevice : Obligations.OnlyTheBlockUsesTheDevice := by
  intro s t h hf
  refine ⟨?_, fun hq => (step_keeps_device h hq fun f hr => hf hr f).2, step_keeps_reads h⟩
  by_cases hq : s.sequencerMoves
  · rcases step_sequencer_device h hq with hk | ⟨f, n, hc, hs⟩
    · exact .inl hk
    · exact .inr ⟨hq, f, n, hc, frame_bytes hs⟩
  · exact .inl (step_keeps_device h hq fun f hr => hf hr f).1

/-! ### Where SEQ goes in a step (R24) -/

/-- A move stands first in the agenda, or nothing is scheduled. -/
theorem moved_head {u : Option Turn} {rest : List Turn} {g : Nat} (hm : Moved s u rest g) : s.agenda.head? = u := by
  cases u with
  | none => simp [hm.1]
  | some u => simp [hm.1]

/-- A reset makes SEQ IDLE (R230). -/
theorem step_reset_idle (h : step s = .next t) (hr : s.agenda.head? = some .reset) : t.seq = .idle := by
  obtain ⟨rest, ha⟩ := List.head?_eq_some_iff.1 hr
  rw [step_turn ha] at h
  cases h
  rfl

/-- A step leaves SEQ, resets it, issues an operation from IDLE, or is a micro-step. -/
theorem step_seq_cases (h : step s = .next t) :
    t.seq = s.seq ∨
    (s.agenda.head? = some .reset ∧ t.seq = .idle) ∨
    (s.seq = .idle ∧ ∃ o : HostOp,
      (s.agenda.head? = some (.present o.code) ∨ s.agenda.head? = some .host ∨ s.agenda = []) ∧
      t.seq = HostOp.first o ∧ t.curOp = o.code ∧ t.lastOp = HostOp.number o) ∨
    (s.seq ≠ .idle ∧ (s.agenda.head? = some .block ∨ s.agenda = []) ∧ SeqMoves s t) := by
  cases step_inversion h with
  | reset rest hm ht => exact .inr (.inl ⟨by simp [hm], ht ▸ rfl⟩)
  | issue o u rest g pc lines hm hu hi ht =>
    refine .inr (.inr (.inl ⟨hi, o, ?_, by simp [ht]⟩))
    rw [moved_head hm]
    rcases hu with rfl | rfl | rfl
    · exact .inr (.inr hm.1)
    · exact .inr (.inl rfl)
    · exact .inl rfl
  | micro o u rest g hm hu ho ht =>
    rcases exec_seq (s := moved s rest g) ho ht with hq | ⟨rfl, -⟩ | ⟨-, hs, ht⟩ | ⟨-, hs, ht⟩
    · refine .inr (.inr (.inr ⟨fun hi => by simp [hi, Seq.op] at ho, ?_, hq⟩))
      rcases hu with rfl | ⟨rfl, -⟩
      · exact .inl (moved_head hm)
      · exact .inr hm.1
    · exact .inl rfl
    · exact .inl (ht.trans hs.symm)
    · exact .inl (ht.trans hs.symm)
  | _ => subst_vars; simp

/-- Settles O48: the micro-step's cases, and whose turn each move of SEQ is. -/
theorem sequencerFollowsItsSuccessors : Obligations.SequencerFollowsItsSuccessors := by
  refine fun s t => ⟨fun o ho h => or_assoc.1 (exec_seq ho h), fun h => ?_⟩
  rcases step_seq_cases h with hk | ⟨hr, hi⟩ | ⟨hi, hx⟩ | ⟨hb, hu, hq⟩
  · refine ⟨fun hi hn => absurd (hk.trans hi) hn, fun _ _ => .inl hk, fun u hu => ?_⟩
    cases u with
    | reset => exact step_reset_idle h hu
    | present | host => exact fun _ => hk
    | block => exact hk.trans
    | clock | readReg | readBuf | cancel | start | frame => exact hk
  · refine ⟨fun _ hn => absurd hi hn, fun _ hn => absurd hr hn, fun u hu => ?_⟩
    cases hr.symm.trans hu
    exact hi
  · refine ⟨fun _ _ => hx, fun hb => absurd hi hb, fun u hu => ?_⟩
    obtain ⟨o, hx, -⟩ := hx
    rcases hx with hx | hx | hx
    · cases hx.symm.trans hu
      exact fun hb => absurd hi hb
    · cases hx.symm.trans hu
      exact fun hb => absurd hi hb
    · simp [hx] at hu
  · refine ⟨fun hi => absurd hi hb, fun _ _ => .inr ⟨hu, hq⟩, fun u hu' => ?_⟩
    rcases hu with hu | hu
    · cases hu.symm.trans hu'
      exact fun hi => absurd hi hb
    · simp [hu] at hu'

/-- Settles O6: the sequencer's turn and its free move are the micro-step of the operation. -/
theorem stepRunsTheOperationInProgress : Obligations.StepRunsTheOperationInProgress := by
  intro s o ho
  constructor
  · intro rest ha
    obtain ⟨t, ht⟩ := exec_next o.instr { s with agenda := rest }
    rw [ht, step_block ho ha ht]
  · intro ha hg hh
    obtain ⟨t, ht⟩ := exec_next o.instr s.spend
    exact (step_free_block ho ha hg hh ht).trans ht.symm

/-! ### Registers (R26 to R31, R36) -/

/-- Registers 0 to 4 hold a value (R26). -/
theorem register_of_lt {r : Byte} (hr : r.toNat < 5) : ∃ v, s.register r = some v := by
  unfold State.register
  split_ifs with h0 h1 h2 h3 h4
  case neg => bv_omega
  all_goals exact ⟨_, rfl⟩

/-- The register numbers 5 to 255 are reserved (R36). -/
theorem register_of_ge {r : Byte} (hr : 5 ≤ r.toNat) : s.register r = none := by
  have hne : ∀ k : Byte, k.toNat < 5 → r ≠ k := fun k hk he => by
    subst he
    omega
  simp [State.register, hne]

/-- Settles O40: a register read is a value handed over, or a refusal. -/
theorem registerReadHasNoSideEffect : Obligations.RegisterReadHasNoSideEffect := by
  intro s r rest ha
  rw [step_turn ha]
  constructor
  · intro hr
    obtain ⟨v, hv⟩ := register_of_lt (s := s) hr
    have hv' : State.register { s with agenda := rest } r = some v := hv
    exact ⟨v, hv, by simp [takeTurn, readRegister, hv']⟩
  · intro hr
    have hv : State.register { s with agenda := rest } r = none := register_of_ge hr
    simp [takeTurn, readRegister, hv, State.refuse]

/-- Above the error code and the three flags STATUS holds LAST_OP between its reserved bits (R26). -/
theorem statusWord_above_flags (s : State) {start len : Nat} (h : 6 ≤ start) :
    s.statusWord.extractLsb' start len =
      (0#5 ++ BitVec.ofNat 3 s.lastOp.val ++ 0#2).extractLsb' (start - 6) len := by
  rw [State.statusWord, BitVec.extractLsb'_append_eq_of_le (by omega), BitVec.extractLsb'_append_eq_of_le (by omega),
    BitVec.extractLsb'_append_eq_of_le (by omega), BitVec.extractLsb'_append_eq_of_le (by omega)]
  simp only [Nat.sub_sub]

/-- Settles O39, field by field. -/
theorem statusHasItsFields : Obligations.StatusHasItsFields := by
  refine fun s => ⟨?err, ?busy, ?startValid, ?endValid, ?reserved, ?lastOp, ?top⟩
  case err =>
    rw [State.statusWord, BitVec.extractLsb'_append_eq_right]
    cases s.err <;> rfl
  case busy => simp only [State.statusWord, BitVec.getLsbD_append]; simp [State.busy]
  case startValid => simp only [State.statusWord, BitVec.getLsbD_append]; simp
  case endValid => simp only [State.statusWord, BitVec.getLsbD_append]; simp
  case reserved =>
    rw [statusWord_above_flags s (le_refl 6)]
    exact BitVec.extractLsb'_append_eq_right
  case lastOp =>
    rw [statusWord_above_flags s (by decide), BitVec.extractLsb'_append_eq_of_le (by decide)]
    simp only [Nat.reduceSub, BitVec.extractLsb'_append_eq_right, BitVec.toNat_ofNat]
    omega
  case top =>
    rw [statusWord_above_flags s (by decide), BitVec.extractLsb'_append_eq_of_le (by decide)]
    exact BitVec.extractLsb'_append_eq_left

end Step

/-! ### The trigger line (R43, R92, R93) -/

/-- DIR's only 1 is the trigger line's bit (R93). -/
theorem dirByte_getLsbD (c : Cfg) {k : Nat} (hk : k < 8) : (dirByte c).getLsbD k = decide (k = c.trigBit.val) := by
  have h : ∀ b : Fin 8, ∀ k < 8, (1#8 <<< b.val).getLsbD k = decide (k = b.val) := by decide
  exact h c.trigBit k hk

/-- VALUE_HIGH is all ones (R92). -/
theorem valueHigh_getLsbD {k : Nat} (hk : k < 8) : valueHigh.getLsbD k = true := by
  have h : ∀ k < 8, (0xFF#8).getLsbD k = true := by decide
  exact h k hk

/-- VALUE_LOW's only 0 is the trigger line's bit (R92). -/
theorem valueLow_getLsbD (c : Cfg) {k : Nat} (hk : k < 8) : (valueLow c).getLsbD k = decide (k ≠ c.trigBit.val) := by
  rw [valueLow, BitVec.getLsbD_and, BitVec.getLsbD_not, valueHigh_getLsbD hk, ← dirByte, dirByte_getLsbD c hk]
  simp [hk]

/-- On an aligned adapter a whole GPIO_SET sets the lines (R209). -/
theorem cmdWrite_gpioFrame {s : State} (ha : s.frameSync = .aligned) (hn : s.nextCount = 3) (v d : Byte) :
    (s.cmdWrite (gpioFrame v d)).gpioVal = some v ∧ (s.cmdWrite (gpioFrame v d)).gpioDir = some d := by
  simp [State.cmdWrite, State.adapter, ha, hn]

/-- With the trigger line an output, its level is its value bit (R43). -/
theorem trigLevel_of_output {c : Cfg} {s : State} {v : Byte} (hc : s.cfg = c) (hv : s.gpioVal = some v)
    (hd : s.gpioDir = some (dirByte c)) : s.trigLevel = if v.getLsbD c.trigBit.val then .high else .low := by
  simp [State.trigLevel, hc, hv, hd, dirByte_getLsbD c c.trigBit.isLt]

/-- Settles O16: both frames have DIR for their direction byte, and their value bytes differ in the trigger's bit. -/
theorem triggerDrivesTheLine : Obligations.TriggerDrivesTheLine := by
  intro s ha hn hs
  rcases hs with hs | hs
  · have ht : exec .trigger s = .next { s.cmdWrite (frameHigh s.cfg) with
        wake := some (s.clk + Config.pulseNs), seq := .tSleep } := by
      simp [exec, execTrigger, triggerStep, hs, tHighStep, hn]
    obtain ⟨hv, hd⟩ := cmdWrite_gpioFrame ha hn valueHigh (dirByte s.cfg)
    refine ⟨_, _, _, ht, hv, hd, ?_, fun k hk => ⟨dirByte_getLsbD s.cfg hk, fun _ => valueHigh_getLsbD hk⟩⟩
    refine (trigLevel_of_output (cmdWrite_cfg s _) hv hd).trans ?_
    rw [valueHigh_getLsbD s.cfg.trigBit.isLt, if_pos rfl, if_pos hs]
  · have ht : exec .trigger s = .next (s.cmdWrite (frameLow s.cfg)).complete := by
      simp [exec, execTrigger, triggerStep, hs, tLowStep, hn]
    obtain ⟨hv, hd⟩ := cmdWrite_gpioFrame ha hn (valueLow s.cfg) (dirByte s.cfg)
    refine ⟨_, _, _, ht, hv, hd, ?_, fun k hk => ⟨dirByte_getLsbD s.cfg hk, fun hne => ?_⟩⟩
    · refine (trigLevel_of_output (cmdWrite_cfg s _) hv hd).trans ?_
      rw [valueLow_getLsbD s.cfg s.cfg.trigBit.isLt]
      simp [hs]
    · simpa [valueLow_getLsbD s.cfg hk] using hne

end Sys2Proof.Machine
end

