-- ==== Sys2Proof/Proofs/Memory.lean ====
section
/-! PROOFS. The statements of the memory and the command port (spec/20_memory.md): a capture fills BUF in stream order,
a frame and a placed word are run by the step, and the host reads BUF only while the block is idle. -/

namespace Sys2Proof.Machine

open Sys2Proof

/-! ### A capture in pieces (R149, R156) -/

/-- Two runs of bytes, one after the other, are one run (R62). -/
theorem Memory.writeBytes_append (m : Memory) (i : Nat) (vs ws : List Byte) :
    Memory.writeBytes m i (vs ++ ws) = Memory.writeBytes (Memory.writeBytes m i vs) (i + vs.length) ws := by
  induction vs generalizing m i with
  | nil => rfl
  | cons v vs ih =>
    rw [List.cons_append, Memory.writeBytes, ih, List.length_cons, Nat.add_right_comm]
    rfl

section Capture

variable {s : State} {later : List Turn}

/-- The state after A_READ has appended the answer `bs`, with the answers `rs` and the turns `later` left and SEQ at `q`
(R144). -/
abbrev appendedTo (q : Seq) (s : State) (bs : List Byte) (rs : List (List Byte)) (later : List Turn) : State :=
  { s with
    agenda := later, buf := Memory.writeBytes s.buf s.filled bs, filled := s.filled + bs.length, reads := rs, seq := q }

/-- The sequencer's turn in A_INIT (R143). -/
theorem step_aInit (hs : s.seq = .aInit) (ha : s.agenda = .block :: later) :
    step s = .next { s with agenda := later, buf := Memory.zeroed, filled := 0, t0 := some s.clk, seq := .aRead } :=
  step_block (o := .accumulate) (by simp [hs, Seq.op]) ha
    (by simp [HostOp.instr, exec, execAccumulate, accumulateStep, hs, aInitStep])

/-- The sequencer's turn in A_READ, when the scheduled answer fits (R144). -/
theorem step_aRead {bs : List Byte} {rs : List (List Byte)} (hs : s.seq = .aRead) (ha : s.agenda = .block :: later)
    (hr : s.reads = bs :: rs) (hl : s.filled + bs.length ≤ s.cfg.capacity) :
    step s = .next (appendedTo .aCheck s bs rs later) := by
  have hfit : ¬ s.cfg.capacity - s.filled < bs.length := by omega
  refine step_block (o := .accumulate) (by simp [hs, Seq.op]) ha ?_
  simp [HostOp.instr, exec, execAccumulate, accumulateStep, hs, aReadStep, State.nextRead, State.dropRead, hr, hfit]

/-- The sequencer's turn in A_CHECK on a full buffer (R146). -/
theorem step_aCheck_full (hs : s.seq = .aCheck) (ha : s.agenda = .block :: later) (hf : s.filled = s.cfg.capacity) :
    step s = .next { s with agenda := later, curOp := 0#8, seq := .idle } := by
  refine step_block (o := .accumulate) (by simp [hs, Seq.op]) ha ?_
  simp [HostOp.instr, exec, execAccumulate, accumulateStep, hs, aCheckStep, hf, State.complete]

/-- The sequencer's turn in A_CHECK on a partial buffer, at the clock of T0 (R146). -/
theorem step_aCheck_partial (hs : s.seq = .aCheck) (ha : s.agenda = .block :: later) (hf : s.filled ≠ s.cfg.capacity)
    (ht : s.t0 = some s.clk) : step s = .next { s with agenda := later, seq := .aRead } := by
  refine step_block (o := .accumulate) (by simp [hs, Seq.op]) ha ?_
  simp [HostOp.instr, exec, execAccumulate, accumulateStep, hs, aCheckStep, hf, State.t0Time, ht]

/-- A piece that leaves room takes a read and a check, and A_READ follows at the same clock (R144, R146). -/
theorem run_piece {n : Nat} {bs : List Byte} {rs : List (List Byte)} (hs : s.seq = .aRead)
    (ha : s.agenda = .block :: .block :: later) (ht : s.t0 = some s.clk) (hr : s.reads = bs :: rs)
    (hl : s.filled + bs.length < s.cfg.capacity) :
    Host.Core.run Sys2Proof.core (n + 2) s = Host.Core.run Sys2Proof.core n (appendedTo .aRead s bs rs later) :=
  (run_succ (step_aRead hs ha hr hl.le)).trans (run_succ (step_aCheck_partial rfl rfl hl.ne ht))

/-- The piece that fills the buffer takes a read and a check, and completes (R146). -/
theorem run_lastPiece {bs : List Byte} {rs : List (List Byte)} (hs : s.seq = .aRead)
    (ha : s.agenda = .block :: .block :: later) (hr : s.reads = bs :: rs)
    (hl : s.filled + bs.length = s.cfg.capacity) :
    Host.Core.run Sys2Proof.core 2 s = .next { appendedTo .idle s bs rs later with curOp := 0#8 } :=
  (run_succ (step_aRead hs ha hr hl.le)).trans (run_succ (step_aCheck_full rfl rfl hl))

/-- From A_READ at the clock of T0, pieces of which only the last fills the buffer are appended as one run of bytes, and
the operation completes: one read and one check per piece. -/
theorem run_pieces {pieces rest : List (List Byte)} {last : List Byte} (hs : s.seq = .aRead)
    (ha : s.agenda = List.replicate (2 * (pieces.length + 1)) .block ++ later) (ht : s.t0 = some s.clk)
    (hr : s.reads = pieces ++ last :: rest) (hp : s.filled + pieces.flatten.length < s.cfg.capacity)
    (hf : s.filled + (pieces ++ [last]).flatten.length = s.cfg.capacity) :
    Host.Core.run Sys2Proof.core (2 * (pieces.length + 1)) s =
      .next { appendedTo .idle s (pieces ++ [last]).flatten rest later with curOp := 0#8 } := by
  induction pieces generalizing s with
  | nil =>
    rw [List.nil_append, List.flatten_singleton] at hf ⊢
    exact run_lastPiece hs ha hr hf
  | cons bs pieces ih =>
    simp only [List.flatten_cons, List.cons_append, List.length_append, ← Nat.add_assoc] at hp hf
    calc Host.Core.run Sys2Proof.core (2 * (pieces.length + 1) + 2) s
      _ = Host.Core.run Sys2Proof.core (2 * (pieces.length + 1)) (appendedTo .aRead s bs (pieces ++ last :: rest)
            (List.replicate (2 * (pieces.length + 1)) Turn.block ++ later)) := run_piece hs ha ht hr (by omega)
      _ = _ := ih rfl rfl ht rfl hp hf
      _ = _ := by simp [Memory.writeBytes_append, Nat.add_assoc]

end Capture

/-- Settles O27: A_INIT empties the buffer, and the pieces are then one run of bytes from index 0. -/
theorem captureArrivesInStreamOrder : Obligations.CaptureArrivesInStreamOrder := by
  intro s pieces last rest later hs ha hr hp hf
  rw [Nat.add_comm 1] at ha ⊢
  have hrun := (run_succ (step_aInit hs ha)).trans
    (run_pieces rfl rfl rfl hr (by simpa using hp) ((Nat.zero_add _).trans hf))
  refine ⟨_, hrun, by simp only [Nat.zero_add, hf], fun i hi => ?_⟩
  have hi' : i < (pieces ++ [last]).flatten.length := hf.symm ▸ hi
  have hread := Memory.read_writeBytes_inside Memory.zeroed_wf 0 _ hi'
  rw [Nat.zero_add] at hread
  rw [List.getElem?_eq_getElem hi', ← hread]

/-! ### Frames and op codes as the step takes them (R80, R86, R95) -/

/-- The bytes of a frame decode as the frame does, with nothing left over (R99). -/
theorem decodeBytes_frame {f : Frame} {i : Instr} :
    decodeBytes .wire f.bytes = .ok (i, []) ↔ decodeFrame f = .ok i := by
  simp only [Frame.bytes, decodeBytes]
  cases decodeFrame f <;> simp

/-- A frame that decodes stands at the wire level (R98). -/
theorem level_of_decodeFrame {f : Frame} {i : Instr} (h : decodeFrame f = .ok i) : i.level = .wire := by
  unfold decodeFrame at h
  split_ifs at h <;> cases h <;> rfl

/-- A host op code that decodes stands at the host level (R97). -/
theorem level_of_decodeHostOp {op : Byte} {i : Instr} (h : decodeHostOp op = .ok i) : i.level = .host := by
  obtain ⟨o, rfl, -⟩ := decodeHostOp_ok h
  cases o <;> rfl

/-- A scheduled op code is presented (R95). -/
theorem step_present {s : State} {op : Byte} {rest : List Turn} (h : s.agenda = .present op :: rest) :
    step s = presentOp op { s with agenda := rest } :=
  step_turn h

/-- A scheduled frame stands at the command port (R80, R209). -/
theorem step_frame {s : State} {f : Frame} {rest : List Turn} (h : s.agenda = .frame f :: rest) :
    step s = frameTurn f { s with agenda := rest } :=
  step_turn h

/-- On an idle block a presented op code that decodes is its instruction (R95). -/
theorem presentOp_of_decode {s : State} {op : Byte} {i : Instr} (hs : s.seq = .idle) (h : decodeHostOp op = .ok i) :
    presentOp op s = exec i s := by
  simp [presentOp, State.busy, hs, h]

/-- While no host program runs, a frame that decodes is its instruction (R86, R209). -/
theorem frameTurn_of_decode {s : State} {f : Frame} {i : Instr} (hr : s.hostRuns = false) (h : decodeFrame f = .ok i) :
    frameTurn f s = exec i s := by
  simp [frameTurn, hr, h]

/-- While a host program runs, a frame is not written (R80; log 3). -/
theorem frameTurn_of_hostRuns {s : State} (f : Frame) (hr : s.hostRuns = true) : frameTurn f s = .next s := by
  simp [frameTurn, hr]

/-- Settles O7: the frame's turn, by whether a host program runs. -/
theorem stepRunsTheFrameAtThePort : Obligations.StepRunsTheFrameAtThePort := by
  intro s f rest ha
  rw [step_frame ha]
  exact ⟨fun hr i hi => frameTurn_of_decode hr (decodeBytes_frame.1 hi), fun hr => frameTurn_of_hostRuns f hr⟩

/-- A table word that decodes holds a host op code or a frame (R99; log 1). -/
theorem tableBytes_of_decode {nbits w : Nat} {i : Instr} (h : decodeTableWord nbits w = some i) :
    (∃ op, tableBytes nbits w = [op] ∧ decodeHostOp op = .ok i) ∨
    (∃ f : Frame, tableBytes nbits w = f.bytes ∧ decodeFrame f = .ok i) := by
  unfold decodeTableWord at h
  split at h <;> cases h
  rename_i hd
  by_cases h8 : nbits = 8
  · subst h8
    refine .inl ⟨_, rfl, ?_⟩
    simp only [tableLevel, tableBytes, if_true, decodeBytes] at hd
    split at hd <;> cases hd
    assumption
  · by_cases h24 : nbits = 24
    · subst h24
      exact .inr ⟨⟨_, _, _⟩, rfl, decodeBytes_frame.1 hd⟩
    · simp [tableLevel, tableBytes, h8, h24, decodeBytes] at hd

/-- A placed op code is presented to the idle block (log 25). -/
theorem withFetchWord_op {s : State} {nbits w : Nat} {op : Byte} (h : tableBytes nbits w = [op]) :
    s.withFetchWord nbits w = { s with seq := .idle, agenda := .present op :: s.agenda } := by
  rw [State.withFetchWord, placeWord, h]

/-- A placed frame stands at the command port of the idle block, and no host program runs (log 25). -/
theorem withFetchWord_frame {s : State} {nbits w : Nat} {f : Frame} (h : tableBytes nbits w = f.bytes) :
    s.withFetchWord nbits w =
      { s with seq := .idle, hostPc := .ready, program := [], agenda := .frame f :: s.agenda } := by
  rw [State.withFetchWord, placeWord, h, Frame.bytes]

/-- Settles O8: the placed word is a presented op code or a frame at the port, and its turn is its instruction. -/
theorem placedWordIsTheNextInstruction : Obligations.PlacedWordIsTheNextInstruction := by
  intro s nbits w i h
  rcases tableBytes_of_decode h with ⟨op, hw, hd⟩ | ⟨f, hw, hd⟩
  · rw [if_pos (level_of_decodeHostOp hd), withFetchWord_op hw, step_present rfl]
    exact presentOp_of_decode rfl hd
  · rw [if_neg (by simp [level_of_decodeFrame hd]), withFetchWord_frame hw, step_frame rfl]
    exact frameTurn_of_decode rfl hd

/-! ### The host's read of BUF (R61, R75) -/

/-- Settles O42: the busy test comes first, then the range test. -/
theorem hostReadsTheBufferOnlyWhileIdle : Obligations.HostReadsTheBufferOnlyWhileIdle := by
  intro s i rest ha
  rw [step_turn ha]
  by_cases hs : s.seq = .idle
  · by_cases hi : i < s.cfg.capacity
    · simp [takeTurn, readBuffer, State.busy, hs, hi]
    · simp [takeTurn, readBuffer, State.busy, hs, hi, Nat.not_lt.1 hi, State.mark, FaultSet.add]
  · simp [takeTurn, readBuffer, State.busy, hs, State.mark, FaultSet.add]

end Sys2Proof.Machine
end

/-! PROOFS. The encoding's statements (spec/30_encoding.md): decoding and encoding agree, a presented op code is issued,
refused or a fault, the host's programs CYCLE and RUN make the moves of R100 to R102, no operation reads the results of
an earlier cycle that it should not, and only RUN's poll reads the cancellation input. -/

namespace Sys2Proof.Machine

open Sys2Proof

/-! ### Decoding and encoding agree (R85 to R99) -/

/-- At the host level one byte is read, and it is an op code (R95). -/
theorem decodeBytes_host_ok {bs rest : List Byte} {i : Instr} :
    decodeBytes .host bs = .ok (i, rest) ↔ ∃ op, bs = op :: rest ∧ decodeHostOp op = .ok i := by
  cases bs with
  | nil => simp [decodeBytes]
  | cons b bs =>
    simp only [decodeBytes]
    cases hd : decodeHostOp b <;> simp [hd, and_comm]

/-- At the wire level three bytes are read, and they are a frame (R85). -/
theorem decodeBytes_wire_ok {bs rest : List Byte} {i : Instr} :
    decodeBytes .wire bs = .ok (i, rest) ↔ ∃ f : Frame, bs = f.bytes ++ rest ∧ decodeFrame f = .ok i := by
  constructor
  · intro h
    match bs, h with
    | b0 :: b1 :: b2 :: bs, h =>
      simp only [decodeBytes] at h
      split at h <;> cases h
      exact ⟨_, rfl, by assumption⟩
  · rintro ⟨f, rfl, hf⟩
    simp [Frame.bytes, decodeBytes, hf]

/-- An operation stands at the host level (R97). -/
theorem level_instr (o : HostOp) : o.instr.level = .host := by cases o <;> rfl

/-- The encoding of an operation is its op code (R96). -/
theorem encode_instr (o : HostOp) : encode o.instr = [o.code] := by cases o <;> rfl

/-- A frame that decodes is the encoding of its instruction (R86, R90). -/
theorem encode_of_decodeFrame {f : Frame} {i : Instr} (h : decodeFrame f = .ok i) : encode i = f.bytes := by
  unfold decodeFrame at h
  split_ifs at h with h0 h1 <;> cases h
  · rw [encode, gpioFrame, ← h0]
  · have hl : lengthLow (lengthField f.b1 f.b2) = f.b1 := BitVec.extractLsb'_append_eq_right
    have hh : lengthHigh (lengthField f.b1 f.b2) = f.b2 := BitVec.extractLsb'_append_eq_left
    rw [encode, captureFrame, hl, hh, ← h1]

/-- Settles O1: an operation's encoding is its op code, a frame's its three bytes, and each of them decodes. -/
theorem decodeReadsBackEveryEncoding : Obligations.DecodeReadsBackEveryEncoding := by
  intro i rest
  cases i with
  | trigger => exact decodeBytes_host_ok.2 ⟨_, rfl, decodeHostOp_code .trigger⟩
  | capinit => exact decodeBytes_host_ok.2 ⟨_, rfl, decodeHostOp_code .capinit⟩
  | accumulate => exact decodeBytes_host_ok.2 ⟨_, rfl, decodeHostOp_code .accumulate⟩
  | locate => exact decodeBytes_host_ok.2 ⟨_, rfl, decodeHostOp_code .locate⟩
  | gpioSet v d => exact decodeBytes_wire_ok.2 ⟨gpioFrame v d, rfl, decodeFrame_gpioFrame v d⟩
  | capture l => exact decodeBytes_wire_ok.2 ⟨captureFrame l, rfl, decodeFrame_captureFrame l⟩

/-- Settles O2, level by level. -/
theorem encodeReadsBackEveryDecoding : Obligations.EncodeReadsBackEveryDecoding := by
  intro lvl bs rest i h
  cases lvl with
  | host =>
    obtain ⟨op, rfl, hop⟩ := decodeBytes_host_ok.1 h
    obtain ⟨o, rfl, rfl⟩ := decodeHostOp_ok hop
    exact ⟨level_instr o, by rw [encode_instr, List.singleton_append]⟩
  | wire =>
    obtain ⟨f, rfl, hf⟩ := decodeBytes_wire_ok.1 h
    exact ⟨level_of_decodeFrame hf, by rw [encode_of_decodeFrame hf]⟩

/-- Settles O3: each of the words is the encoding of its instruction. -/
theorem specWordsDecode : Obligations.SpecWordsDecode :=
  have h := fun i => decodeReadsBackEveryEncoding i []
  ⟨h .trigger, h .capinit, h .accumulate, h .locate, h (.gpioSet 0xFF 0x01), h (.capture 0xFFFE), h (.capture 0x0100)⟩

/-- Settles O4: `L` is its remainder and its quotient by 256. -/
theorem captureLengthIsLittleEndian : Obligations.CaptureLengthIsLittleEndian := by
  intro l
  refine ⟨rfl, ?_⟩
  have hl := l.isLt
  simp only [BitVec.extractLsb'_toNat, Nat.shiftRight_eq_div_pow]
  omega

/-! ### A presented op code (R95 to R97, R103, R104) -/

/-- Settles O5: the turn presents the op code, and the idle block runs its instruction. -/
theorem stepRunsThePresentedOperation : Obligations.StepRunsThePresentedOperation := by
  intro s op rest i hs ha hd
  rw [step_present ha]
  exact presentOp_of_decode hs hd

/-- On an idle block a presented operation is its meaning (R103). -/
theorem presentOp_code {s : State} (o : HostOp) (hs : s.seq = .idle) : presentOp o.code s = exec o.instr s :=
  presentOp_of_decode hs (decodeHostOp_code o)

/-- On a busy block a presented op code is F_BUSY (R104). -/
theorem presentOp_busy {s : State} (op : Byte) (hs : s.seq ≠ .idle) : presentOp op s = .next (s.mark .busy) := by
  simp [presentOp, State.busy, hs]

/-- The op codes of the operations are 1 to 4 (R96). -/
theorem code_range (o : HostOp) : 1 ≤ o.code.toNat ∧ o.code.toNat ≤ 4 := by cases o <;> decide

/-- Settles O9: the presented op code's meaning, and the issue of each operation. -/
theorem issueStartsTheOperation : Obligations.IssueStartsTheOperation := by
  intro s hs
  refine ⟨fun o rest ha => ?_, exec_idle .trigger hs, exec_idle .capinit hs, exec_idle .accumulate hs,
    exec_idle .locate hs⟩
  rw [step_present ha]
  exact presentOp_code o hs

/-- Settles O10: a code outside 1 to 4 is no operation's, so it is refused. -/
theorem reservedOpCodeOnlySetsRefused : Obligations.ReservedOpCodeOnlySetsRefused := by
  intro s op rest hs ha hop
  rw [step_present ha]
  rcases presentOp_idle (s := { s with agenda := rest }) (op := op) hs with ⟨o, rfl, -⟩ | ⟨-, h⟩
  · obtain ⟨h1, h4⟩ := code_range o
    rcases hop with h0 | h5
    · simp [h0] at h1
    · omega
  · exact h

/-- Settles O11: while busy the op code is not decoded. -/
theorem opCodeWhileBusyOnlySetsBusyFault : Obligations.OpCodeWhileBusyOnlySetsBusyFault := by
  intro s op rest hs ha
  rw [step_present ha]
  exact presentOp_busy op hs

/-! ### CAPTURE as an instruction (R88, R209, R210) -/

/-- Settles O36: an aligned adapter takes the request, and of one out of step nothing is known. -/
theorem captureRequestsItsLength : Obligations.CaptureRequestsItsLength := by
  intro s l hn
  have hx : exec (.capture l) s = .next (s.cmdWrite (captureFrame l)) := rfl
  rw [hx]
  rcases cmdWrite_cases (captureFrame l) s with
    ⟨h, -⟩ | ⟨-, hu, hw⟩ | ⟨-, -, v, d, hd, -⟩ | ⟨-, ha, k, hd, hw⟩ | ⟨-, -, ⟨e, hd⟩, -⟩
  · exact absurd hn h
  · rw [hw]
    simp [hu, captureFrame, lengthLow, lengthHigh, Config.opCapture]
  · simp at hd
  · obtain rfl : l = k := by simpa using hd
    rw [hw]
    simp [ha, captureFrame, lengthLow, lengthHigh, Config.opCapture]
  · simp at hd

/-! ### LOCATE as a verdict on the buffer and a report of it (R178, R179) -/

/-- What the scans find in the first `n` bytes: no start edge, a start edge alone, or a window (R169 to R173). -/
def edges (m : Memory) (n : Nat) : Option (Nat × Option Nat) :=
  match scanUp m n 0 with
  | none => none
  | some i => if bitIndex m i = 0 then none else some (bitIndex m i, (scanDown m i n).map (bitIndex m))

/-- How L_SCAN ends with what the scans have found (R176, R177). -/
def report (e : Option (Nat × Option Nat)) (s : State) : State :=
  match e with
  | none => noStart s
  | some (a, none) => noEnd a s
  | some (a, some b) => found a b s

/-- L_SCAN on a full buffer reports what the scans find; of the state before it they read BUF alone (R178). -/
theorem scanStep_eq_report (s : State) : scanStep s = report (edges s.buf s.cfg.capacity) s := by
  unfold scanStep edges
  cases scanUp s.buf s.cfg.capacity 0 with
  | none => rfl
  | some i =>
    by_cases h0 : bitIndex s.buf i = 0
    · simp [h0, report]
    · cases hd : scanDown s.buf i s.cfg.capacity <;> simp [h0, hd, report]

/-- Issued again on what it left, LOCATE reports the same, LAST_OP and ERR being those of its first run (R103). -/
theorem report_twice {s : State} (e : Option (Nat × Option Nat)) (hl : s.lastOp = 4) (he : s.err = .ok) :
    report e ((report e s).issue .locate) = report e s := by
  match e with
  | none | some (_, none) | some (_, some _) =>
    simp [report, noStart, noEnd, found, State.issue, State.raise, State.complete, HostOp.number, hl, he]

/-- LOCATE at L_SCAN on a full buffer is the report (R178). -/
theorem exec_locate_full {s : State} (hs : s.seq = .lScan) (hf : s.filled = s.cfg.capacity) :
    exec .locate s = .next (report (edges s.buf s.cfg.capacity) s) := by
  simp [exec, execLocate, locateStep, hs, lScanStep, hf, scanStep_eq_report]

/-- A report ends the operation and leaves the parameters and the buffer (R105, R198). -/
theorem report_frame (e : Option (Nat × Option Nat)) (s : State) :
    (report e s).seq = .idle ∧ (report e s).cfg = s.cfg ∧ (report e s).buf = s.buf ∧
      (report e s).filled = s.filled := by
  match e with
  | none | some (_, none) | some (_, some _) => exact ⟨rfl, rfl, rfl, rfl⟩

/-- Settles O34: the second run finds the same in the same buffer, and reports it on the state the first one left. -/
theorem locateTwiceGivesTheSame : Obligations.LocateTwiceGivesTheSame := by
  intro s t hinv hs hf ht
  obtain ⟨hl, he, -⟩ := hinv.runningFlags .locate (by rw [hs]; rfl)
  rw [exec_locate_full hs hf] at ht
  cases ht
  obtain ⟨hi, hc, hb, hn⟩ := report_frame (edges s.buf s.cfg.capacity) s
  refine ⟨_, exec_idle .locate hi, ?_⟩
  rw [exec_locate_full rfl (by simp [hc, hn, hf]), issue_buf, issue_cfg, hb, hc, report_twice _ hl he]

/-! ### The host's program at its places (R100 to R102) -/

/-- Where a cycle goes when the operation `o` has ended with `e` (R101). -/
def afterOperation (e : Err) (o : HostOp) (loop : Bool) : HostPc :=
  match e, HostOp.next o with
  | .ok, some o' => .present o' loop
  | _, _ => if loop then .report else .ready

section HostProgram

variable {s : State} {o : HostOp} {loop : Bool} {lines : List HostLine}

/-- The host's scheduled turn is a move of its program (R101). -/
theorem step_host {rest : List Turn} (h : s.agenda = .host :: rest) : step s = hostMove { s with agenda := rest } :=
  step_turn h

/-- With nothing scheduled and a move granted, an able host program moves (log 6). -/
theorem step_free_host (h : s.agenda = []) (hg : s.untilTick ≠ 0) (hh : s.hostEnabled = true) :
    step s = hostMove s.spend := by
  have hb : s.blockEnabled = false := by
    simp only [State.hostEnabled, Bool.and_eq_true, Bool.not_eq_true'] at hh
    simp [State.blockEnabled, hh.1]
  simp [step, h, freeTurn, hg, hb, hh]

/-- While busy the host's program waits (R101). -/
theorem hostMove_busy (hs : s.seq ≠ .idle) : hostMove s = .next s := by simp [hostMove, State.busy, hs]

/-- With no line left nothing moves (R100). -/
theorem hostMove_noLine (hs : s.seq = .idle) (hp : s.hostPc = .ready) (hl : s.program = []) :
    hostMove s = .next s := by
  simp [hostMove, State.busy, hs, hp, hl]

/-- An operation line presents its op code (R100). -/
theorem hostMove_opLine (hs : s.seq = .idle) (hp : s.hostPc = .ready) (hl : s.program = .op o :: lines) :
    hostMove s = exec o.instr { s with program := lines, hostPc := .waitOp } := by
  rw [← presentOp_code o (s := { s with program := lines, hostPc := .waitOp }) hs]
  simp [hostMove, State.busy, hs, hp, hl]

/-- A CYCLE line stands before TRIGGER (R101). -/
theorem hostMove_cycleLine (hs : s.seq = .idle) (hp : s.hostPc = .ready) (hl : s.program = .cycle :: lines) :
    hostMove s = .next { s with program := lines, hostPc := .present .trigger false } := by
  simp [hostMove, State.busy, hs, hp, hl]

/-- A RUN line stands at its poll (R102). -/
theorem hostMove_runLine (hs : s.seq = .idle) (hp : s.hostPc = .ready) (hl : s.program = .run :: lines) :
    hostMove s = .next { s with program := lines, hostPc := .poll } := by
  simp [hostMove, State.busy, hs, hp, hl]

/-- After an operation line the next line follows (R100). -/
theorem hostMove_waitOp (hs : s.seq = .idle) (hp : s.hostPc = .waitOp) :
    hostMove s = .next { s with hostPc := .ready } := by
  simp [hostMove, State.busy, hs, hp]

/-- Inside a cycle the operation at hand is presented (R101). -/
theorem hostMove_present (hs : s.seq = .idle) (hp : s.hostPc = .present o loop) :
    hostMove s = exec o.instr { s with hostPc := .await o loop } := by
  rw [← presentOp_code o (s := { s with hostPc := .await o loop }) hs]
  simp [hostMove, State.busy, hs, hp]

/-- Once an operation has ended, the cycle goes on to the next one, or ends at an error or after its last (R101). -/
theorem hostMove_await (hs : s.seq = .idle) (hp : s.hostPc = .await o loop) :
    hostMove s = .next { s with hostPc := afterOperation s.err o loop } := by
  cases he : s.err with
  | ok => cases hn : HostOp.next o <;> simp [hostMove, State.busy, hs, hp, he, hn, afterOperation, endCycle]
  | transport | timeout | noPulseStart | noPulseEnd =>
    simp [hostMove, State.busy, hs, hp, he, afterOperation, endCycle]

/-- At its poll RUN stops on a cancellation, and starts a cycle without one (R102). -/
theorem hostMove_poll (hs : s.seq = .idle) (hp : s.hostPc = .poll) :
    hostMove s = .next (
      if s.cancel then { s with program := [], hostPc := .ready }
      else { s with hostPc := .present .trigger true }) := by
  simp only [hostMove, State.busy, hs, hp]
  cases s.cancel <;> rfl

/-- After its report RUN polls (R102). -/
theorem hostMove_report (hs : s.seq = .idle) (hp : s.hostPc = .report) :
    hostMove s = .next { s with hostPc := .poll } := by
  simp [hostMove, State.busy, hs, hp]

end HostProgram

/-- Settles O58: the move of each place, at the host's scheduled turn and at its free move. -/
theorem hostProgramTakesItsLines : Obligations.HostProgramTakesItsLines := by
  intro s
  refine ⟨fun rest ha hs => ?idle, fun rest ha hs => ?busy, fun ha hg hh => ?free, fun lines rest ha => step_turn ha⟩
  case idle =>
    have hs : State.seq { s with agenda := rest } = .idle := hs
    rw [step_host ha]
    exact ⟨hostMove_noLine hs, fun o lines => hostMove_opLine hs, fun lines => hostMove_cycleLine hs,
      fun lines => hostMove_runLine hs, hostMove_waitOp hs, fun o loop => hostMove_present hs⟩
  case busy =>
    rw [step_host ha]
    exact hostMove_busy hs
  case free =>
    rw [step_free_host ha hg hh, step_host rfl, State.spend, ← ha]

/-- Settles O59: the wait, the next operation, and the end at an error or after LOCATE. -/
theorem cycleAbortsAtTheFirstError : Obligations.CycleAbortsAtTheFirstError := by
  intro s o loop rest ha hp
  rw [step_host ha]
  by_cases hs : s.seq = .idle
  · rw [if_neg (not_not_intro hs), hostMove_await (s := { s with agenda := rest }) hs hp]
    dsimp only
    generalize s.err = e
    cases e with
    | ok => cases o <;> rfl
    | transport | timeout | noPulseStart | noPulseEnd => rfl
  · rw [if_pos hs]
    exact hostMove_busy hs

/-! ### What an operation does not read (R204, R232)

An operation that does not read a part of the state makes the same step with any other content of that part: its meaning
and the replacement of that part commute. -/

/-- The outcome with its next state replaced. -/
def mapNext (g : State → State) : Host.Outcome State Fault Refusal → Host.Outcome State Fault Refusal
  | .next s => .next (g s)
  | .fault r => .fault r
  | .refused r => .refused r

section Cancel

variable (c : Bool) (s : State)

@[simp] theorem withCancel_busy : (s.withCancel c).busy = s.busy := rfl
@[simp] theorem withCancel_hostRuns : (s.withCancel c).hostRuns = s.hostRuns := rfl
@[simp] theorem withCancel_register (number : Byte) : (s.withCancel c).register number = s.register number := rfl

/-! ### The cancellation input is the poll's alone (R102, R204) -/

/-- T_HIGH does not read the cancellation input. -/
theorem tHighStep_withCancel : tHighStep (s.withCancel c) = (tHighStep s).withCancel c := by
  rw [tHighStep, withCancel_nextCount, withCancel_cfg, cmdWrite_withCancel, tHighStep]
  split <;> rfl

/-- T_SLEEP does not read the cancellation input. -/
theorem tSleepStep_withCancel : tSleepStep (s.withCancel c) = (tSleepStep s).withCancel c := by
  rw [tSleepStep, withCancel_clk, withCancel_wakeTime, tSleepStep]
  split <;> rfl

/-- T_LOW does not read the cancellation input. -/
theorem tLowStep_withCancel : tLowStep (s.withCancel c) = (tLowStep s).withCancel c := by
  rw [tLowStep, withCancel_nextCount, withCancel_cfg, cmdWrite_withCancel, tLowStep]
  split <;> rfl

/-- C_WRITE does not read the cancellation input. -/
theorem cWriteStep_withCancel : cWriteStep (s.withCancel c) = (cWriteStep s).withCancel c := by
  rw [cWriteStep, withCancel_nextCount, withCancel_cfg, cmdWrite_withCancel, cWriteStep]
  split <;> rfl

/-- A_READ does not read the cancellation input. -/
theorem aReadStep_withCancel : aReadStep (s.withCancel c) = (aReadStep s).withCancel c := by
  rw [aReadStep, withCancel_nextRead, withCancel_cfg, withCancel_filled, dropRead_withCancel, aReadStep]
  split <;> rfl

/-- A_CHECK does not read the cancellation input. -/
theorem aCheckStep_withCancel : aCheckStep (s.withCancel c) = (aCheckStep s).withCancel c := by
  rw [aCheckStep, withCancel_filled, withCancel_cfg, withCancel_clk, withCancel_t0Time, aCheckStep]
  split_ifs <;> rfl

/-- A report of LOCATE does not read the cancellation input. -/
theorem report_withCancel (e : Option (Nat × Option Nat)) :
    report e (s.withCancel c) = (report e s).withCancel c := by
  match e with
  | none | some (_, none) | some (_, some _) => rfl

/-- L_SCAN does not read the cancellation input. -/
theorem lScanStep_withCancel : lScanStep (s.withCancel c) = (lScanStep s).withCancel c := by
  rw [lScanStep, withCancel_filled, withCancel_cfg, scanStep_eq_report, lScanStep, scanStep_eq_report]
  split
  · exact report_withCancel c s _
  · rfl

/-- TRIGGER does not read the cancellation input. -/
theorem triggerStep_withCancel : triggerStep (s.withCancel c) = (triggerStep s).withCancel c := by
  unfold triggerStep
  rw [withCancel_seq]
  cases s.seq with
  | tHigh => exact tHighStep_withCancel c s
  | tSleep => exact tSleepStep_withCancel c s
  | tLow => exact tLowStep_withCancel c s
  | idle | cWrite | aInit | aRead | aCheck | lScan => rfl

/-- CAPINIT does not read the cancellation input. -/
theorem capinitStep_withCancel : capinitStep (s.withCancel c) = (capinitStep s).withCancel c := by
  unfold capinitStep
  rw [withCancel_seq]
  cases s.seq with
  | cWrite => exact cWriteStep_withCancel c s
  | idle | tHigh | tSleep | tLow | aInit | aRead | aCheck | lScan => rfl

/-- ACCUMULATE does not read the cancellation input. -/
theorem accumulateStep_withCancel : accumulateStep (s.withCancel c) = (accumulateStep s).withCancel c := by
  unfold accumulateStep
  rw [withCancel_seq]
  cases s.seq with
  | aRead => exact aReadStep_withCancel c s
  | aCheck => exact aCheckStep_withCancel c s
  | idle | tHigh | tSleep | tLow | cWrite | aInit | lScan => rfl

/-- LOCATE does not read the cancellation input. -/
theorem locateStep_withCancel : locateStep (s.withCancel c) = (locateStep s).withCancel c := by
  unfold locateStep
  rw [withCancel_seq]
  cases s.seq with
  | lScan => exact lScanStep_withCancel c s
  | idle | tHigh | tSleep | tLow | cWrite | aInit | aRead | aCheck => rfl

/-- No instruction reads the cancellation input. -/
theorem exec_withCancel (i : Instr) : exec i (s.withCancel c) = mapNext (State.withCancel c) (exec i s) := by
  cases i with
  | trigger => exact congrArg _ (triggerStep_withCancel c s)
  | capinit => exact congrArg _ (capinitStep_withCancel c s)
  | accumulate => exact congrArg _ (accumulateStep_withCancel c s)
  | locate => exact congrArg _ (locateStep_withCancel c s)
  | gpioSet v d => exact congrArg _ (cmdWrite_withCancel c s (gpioFrame v d))
  | capture l => exact congrArg _ (cmdWrite_withCancel c s (captureFrame l))

/-- Presenting an op code does not read the cancellation input. -/
theorem presentOp_withCancel (op : Byte) :
    presentOp op (s.withCancel c) = mapNext (State.withCancel c) (presentOp op s) := by
  rw [presentOp, withCancel_busy, presentOp]
  split
  · rfl
  · split
    · exact exec_withCancel c s _
    · rfl

/-- The sequencer does not read the cancellation input. -/
theorem blockStep_withCancel : blockStep (s.withCancel c) = mapNext (State.withCancel c) (blockStep s) := by
  rw [blockStep, withCancel_seq, blockStep]
  split
  · exact exec_withCancel c s _
  · rfl

/-- A frame at the port does not read the cancellation input. -/
theorem frameTurn_withCancel (f : Frame) :
    frameTurn f (s.withCancel c) = mapNext (State.withCancel c) (frameTurn f s) := by
  rw [frameTurn, withCancel_hostRuns, frameTurn]
  split
  · rfl
  · split
    · exact exec_withCancel c s _
    · exact congrArg _ (cmdWrite_withCancel c s f)

/-- The host's reads of registers do not read the cancellation input. -/
theorem readRegister_withCancel (number : Byte) :
    readRegister number (s.withCancel c) = (readRegister number s).withCancel c := by
  rw [readRegister, withCancel_register, readRegister]
  split <;> rfl

/-- The host's reads of BUF do not read the cancellation input. -/
theorem readBuffer_withCancel (i : Nat) : readBuffer i (s.withCancel c) = (readBuffer i s).withCancel c := by
  rw [readBuffer, withCancel_busy, withCancel_cfg, readBuffer]
  split_ifs <;> rfl

variable {s}

/-- At every place but its poll the host's program does not read the cancellation input (R102). -/
theorem hostMove_withCancel (hp : s.hostPc ≠ .poll) :
    hostMove (s.withCancel c) = mapNext (State.withCancel c) (hostMove s) := by
  by_cases hs : s.seq = .idle
  case neg => rw [hostMove_busy hs, hostMove_busy (s := s.withCancel c) hs, mapNext]
  cases hpc : s.hostPc with
  | ready =>
    cases hl : s.program with
    | nil => rw [hostMove_noLine hs hpc hl, hostMove_noLine (s := s.withCancel c) hs hpc hl, mapNext]
    | cons line lines =>
      cases line with
      | op o =>
        rw [hostMove_opLine hs hpc hl, hostMove_opLine (s := s.withCancel c) hs hpc hl]
        exact exec_withCancel c { s with program := lines, hostPc := .waitOp } _
      | cycle =>
        rw [hostMove_cycleLine hs hpc hl, hostMove_cycleLine (s := s.withCancel c) hs hpc hl]
        rfl
      | run =>
        rw [hostMove_runLine hs hpc hl, hostMove_runLine (s := s.withCancel c) hs hpc hl]
        rfl
  | waitOp =>
    rw [hostMove_waitOp hs hpc, hostMove_waitOp (s := s.withCancel c) hs hpc]
    rfl
  | present o loop =>
    rw [hostMove_present hs hpc, hostMove_present (s := s.withCancel c) hs hpc]
    exact exec_withCancel c { s with hostPc := .await o loop } _
  | await o loop =>
    rw [hostMove_await hs hpc, hostMove_await (s := s.withCancel c) hs hpc]
    rfl
  | poll => exact absurd hpc hp
  | report =>
    rw [hostMove_report hs hpc, hostMove_report (s := s.withCancel c) hs hpc]
    rfl

/-- Every turn but the input's own, and but the host's at its poll, is free of the cancellation input. -/
theorem takeTurn_withCancel {u : Turn} (hp : s.hostPc ≠ .poll) (hu : ∀ l, u ≠ .cancel l) :
    takeTurn u (s.withCancel c) = mapNext (State.withCancel c) (takeTurn u s) := by
  cases u with
  | block => exact blockStep_withCancel c s
  | present op => exact presentOp_withCancel c s op
  | readReg number => exact congrArg _ (readRegister_withCancel c s number)
  | readBuf i => exact congrArg _ (readBuffer_withCancel c s i)
  | cancel l => exact absurd rfl (hu l)
  | host => exact hostMove_withCancel c hp
  | frame f => exact frameTurn_withCancel c s f
  | clock | reset | start => rfl

/-- The free turn is free of the cancellation input, but for the host's move at its poll. -/
theorem freeTurn_withCancel (hp : s.hostPc ≠ .poll) :
    freeTurn (s.withCancel c) = mapNext (State.withCancel c) (freeTurn s) := by
  have hg : (s.withCancel c).untilTick = s.untilTick := rfl
  have hb : (s.withCancel c).blockEnabled = s.blockEnabled := rfl
  have hh : (s.withCancel c).hostEnabled = s.hostEnabled := rfl
  simp only [freeTurn, hg, hb, hh]
  split
  · rfl
  · split
    · exact blockStep_withCancel c s.spend
    · split
      · exact hostMove_withCancel c (s := s.spend) hp
      · rfl

/-- Away from RUN's poll no step but the input's own turn depends on the cancellation input (R204). -/
theorem step_withCancel (hp : s.hostPc ≠ .poll) (hu : ∀ l, s.agenda.head? ≠ some (.cancel l)) :
    step (s.withCancel c) = mapNext (State.withCancel c) (step s) := by
  rcases step_cases s with ⟨u, rest, ha, hs⟩ | ⟨ha, hs⟩
  · rw [hs, step_turn (s := s.withCancel c) ha]
    exact takeTurn_withCancel c (s := { s with agenda := rest }) hp fun l h => hu l (by simp [ha, h])
  · have hf : step (s.withCancel c) = freeTurn (s.withCancel c) := by
      simp only [step, show (s.withCancel c).agenda = [] from ha]
    rw [hs, hf]
    exact freeTurn_withCancel c hp

end Cancel

/-- Settles O60: the poll and the report, the input's own turn, and the steps that do not read the input. -/
theorem runPollsAtTheCycleBoundary : Obligations.RunPollsAtTheCycleBoundary := by
  intro s
  refine ⟨fun rest ha hs => ?_, fun level rest ha => step_turn ha, fun t c hp hu ht => ?_⟩
  · have hs : State.seq { s with agenda := rest } = .idle := hs
    rw [step_host ha]
    exact ⟨hostMove_poll hs, hostMove_report hs⟩
  · exact (step_withCancel c hp hu).trans (congrArg _ ht)

section Results

variable (m : Memory) (f : Nat) (x y : Option Nat) (a b : Bool) (s : State)

/-! ### The results of an earlier cycle (R232) -/

@[simp] theorem withWindow_seq : (s.withWindow x y a b).seq = s.seq := rfl
@[simp] theorem withWindow_cfg : (s.withWindow x y a b).cfg = s.cfg := rfl
@[simp] theorem withWindow_clk : (s.withWindow x y a b).clk = s.clk := rfl
@[simp] theorem withWindow_filled : (s.withWindow x y a b).filled = s.filled := rfl
@[simp] theorem withWindow_reads : (s.withWindow x y a b).reads = s.reads := rfl
@[simp] theorem withWindow_nextRead : (s.withWindow x y a b).nextRead = s.nextRead := rfl
@[simp] theorem withWindow_t0Time : (s.withWindow x y a b).t0Time = s.t0Time := rfl

/-- T_HIGH does not read the results (R119). -/
theorem tHighStep_withResults :
    tHighStep (s.withResults m f x y a b) = (tHighStep s).withResults m f x y a b := by
  rw [tHighStep, withResults_nextCount, withResults_cfg, cmdWrite_withResults, tHighStep]
  split <;> rfl

/-- T_SLEEP does not read the results (R119). -/
theorem tSleepStep_withResults :
    tSleepStep (s.withResults m f x y a b) = (tSleepStep s).withResults m f x y a b := by
  rw [tSleepStep, withResults_clk, withResults_wakeTime, tSleepStep]
  split <;> rfl

/-- T_LOW does not read the results (R119). -/
theorem tLowStep_withResults :
    tLowStep (s.withResults m f x y a b) = (tLowStep s).withResults m f x y a b := by
  rw [tLowStep, withResults_nextCount, withResults_cfg, cmdWrite_withResults, tLowStep]
  split <;> rfl

/-- C_WRITE does not read the results (R134). -/
theorem cWriteStep_withResults :
    cWriteStep (s.withResults m f x y a b) = (cWriteStep s).withResults m f x y a b := by
  rw [cWriteStep, withResults_nextCount, withResults_cfg, cmdWrite_withResults, cWriteStep]
  split <;> rfl

/-- A used-up answer of the source does not touch the window. -/
theorem dropRead_withWindow : (s.withWindow x y a b).dropRead = s.dropRead.withWindow x y a b := by
  rw [State.dropRead, withWindow_reads, State.dropRead]
  split <;> rfl

/-- A_READ does not read the window (R144). -/
theorem aReadStep_withWindow : aReadStep (s.withWindow x y a b) = (aReadStep s).withWindow x y a b := by
  rw [aReadStep, withWindow_nextRead, withWindow_cfg, withWindow_filled, dropRead_withWindow, aReadStep]
  split <;> rfl

/-- A_CHECK does not read the window (R146). -/
theorem aCheckStep_withWindow : aCheckStep (s.withWindow x y a b) = (aCheckStep s).withWindow x y a b := by
  rw [aCheckStep, withWindow_t0Time, withWindow_cfg, withWindow_filled, withWindow_clk, aCheckStep]
  split_ifs <;> rfl

/-- A report of LOCATE does not read the window; a field that it leaves invalid keeps its old content (R176, R177;
log 17). -/
theorem report_withWindow (e : Option (Nat × Option Nat)) :
    report e (s.withWindow x y a b) = (report e s).withWindow
      (if (report e s).startValid then (report e s).startBit else x)
      (if (report e s).endValid then (report e s).endBit else y) (report e s).startValid (report e s).endValid := by
  match e with
  | none | some (_, none) | some (_, some _) => rfl

variable {s}

/-- TRIGGER in progress, or F_BUSY for it, does not read the results (R119). -/
theorem exec_trigger_withResults (hs : s.seq ≠ .idle) :
    exec .trigger (s.withResults m f x y a b) = mapNext (State.withResults m f x y a b) (exec .trigger s) := by
  refine congrArg Host.Outcome.next (?_ : triggerStep _ = (triggerStep s).withResults m f x y a b)
  unfold triggerStep
  rw [withResults_seq]
  cases hq : s.seq with
  | idle => exact absurd hq hs
  | tHigh => exact tHighStep_withResults m f x y a b s
  | tSleep => exact tSleepStep_withResults m f x y a b s
  | tLow => exact tLowStep_withResults m f x y a b s
  | cWrite | aInit | aRead | aCheck | lScan => rfl

/-- CAPINIT in progress, or F_BUSY for it, does not read the results (R134). -/
theorem exec_capinit_withResults (hs : s.seq ≠ .idle) :
    exec .capinit (s.withResults m f x y a b) = mapNext (State.withResults m f x y a b) (exec .capinit s) := by
  refine congrArg Host.Outcome.next (?_ : capinitStep _ = (capinitStep s).withResults m f x y a b)
  unfold capinitStep
  rw [withResults_seq]
  cases hq : s.seq with
  | idle => exact absurd hq hs
  | cWrite => exact cWriteStep_withResults m f x y a b s
  | tHigh | tSleep | tLow | aInit | aRead | aCheck | lScan => rfl

/-- ACCUMULATE at A_INIT does not read the results, and rewrites BUF and FILLED (R143). -/
theorem exec_aInit_withResults (hs : s.seq = .aInit) :
    exec .accumulate (s.withResults m f x y a b) = mapNext (State.withWindow x y a b) (exec .accumulate s) := by
  refine congrArg Host.Outcome.next (?_ : accumulateStep _ = (accumulateStep s).withWindow x y a b)
  unfold accumulateStep
  rw [withResults_seq, hs]
  rfl

/-- ACCUMULATE at A_READ and A_CHECK does not read the window (R144, R146). -/
theorem exec_accumulate_withWindow (hs : s.seq = .aRead ∨ s.seq = .aCheck) :
    exec .accumulate (s.withWindow x y a b) = mapNext (State.withWindow x y a b) (exec .accumulate s) := by
  refine congrArg Host.Outcome.next (?_ : accumulateStep _ = (accumulateStep s).withWindow x y a b)
  unfold accumulateStep
  rw [withWindow_seq]
  rcases hs with hs | hs <;> rw [hs]
  · exact aReadStep_withWindow x y a b s
  · exact aCheckStep_withWindow x y a b s

/-- LOCATE on a partial buffer is F_PARTIAL_DECODE (R168). -/
theorem exec_locate_partial (hs : s.seq = .lScan) (hf : s.filled ≠ s.cfg.capacity) :
    exec .locate s = .next (s.mark .partialDecode) := by
  simp [exec, execLocate, locateStep, hs, lScanStep, hf]

/-- LOCATE at L_SCAN does not read the window, full buffer or partial (R178; log 17). -/
theorem exec_locate_withWindow {t : State} (hs : s.seq = .lScan) (ht : exec .locate s = .next t) :
    exec .locate (s.withWindow x y a b) = .next (
      if s.filled = s.cfg.capacity then
        t.withWindow (if t.startValid then t.startBit else x) (if t.endValid then t.endBit else y)
          t.startValid t.endValid
      else t.withWindow x y a b) := by
  by_cases hf : s.filled = s.cfg.capacity
  · rw [exec_locate_full hs hf] at ht
    cases ht
    rw [if_pos hf, exec_locate_full (s := s.withWindow x y a b) hs hf, report_withWindow]
    rfl
  · rw [exec_locate_partial hs hf] at ht
    cases ht
    rw [if_neg hf, exec_locate_partial (s := s.withWindow x y a b) hs hf]
    rfl

end Results

/-- Settles O57, operation by operation. -/
theorem oldResultsDoNotLeakIntoACycle : Obligations.OldResultsDoNotLeakIntoACycle := by
  intro s t m f x y a b
  refine ⟨fun hs o ht => ?issue, fun hs => ⟨fun ht => ?trigger, fun ht => ?capinit⟩, fun hs ht => ?aInit,
    fun hs ht => ?accumulate, fun hs ht => exec_locate_withWindow x y a b hs ht⟩
  case issue =>
    rw [exec_idle o hs] at ht
    cases ht
    exact ⟨rfl, rfl, exec_idle (s := s.withResults m f x y a b) o hs⟩
  case trigger => exact (exec_trigger_withResults m f x y a b hs).trans (congrArg _ ht)
  case capinit => exact (exec_capinit_withResults m f x y a b hs).trans (congrArg _ ht)
  case aInit => exact (exec_aInit_withResults m f x y a b hs).trans (congrArg _ ht)
  case accumulate => exact (exec_accumulate_withWindow x y a b hs).trans (congrArg _ ht)

end Sys2Proof.Machine

/-! PROOFS. The statements of TRIGGER (spec/40_trigger.md): its two frames as one law of a whole GPIO_SET and one of a
failed write, the sleep, and the whole operation as the run of its five turns. -/

namespace Sys2Proof.Machine

open Sys2Proof

section Trigger

variable {s : State}

/-! ### One command write, by the count it returned (R209, R211) -/

/-- A whole GPIO_SET sets the lines of an aligned adapter, and leaves nothing known of one out of step (R209). -/
theorem cmdWrite_gpioFrame_whole (hn : s.nextCount = 3) (v d : Byte) :
    s.cmdWrite (gpioFrame v d) = { s.dropCount with
      cmdlog := s.cmdlog ++ [(gpioFrame v d, 3)]
      gpioVal := if s.frameSync = .aligned then some v else none
      gpioDir := if s.frameSync = .aligned then some d else none
      streaming := if s.frameSync = .aligned then s.streaming else none } := by
  cases ha : s.frameSync with
  | aligned => simp [State.cmdWrite, State.adapter, hn, ha]
  | unknown => simp [State.cmdWrite, State.adapter, State.lostEffect, hn, ha]

/-- A write that returned any other count is logged with it, and the adapter is lost (R211). -/
theorem cmdWrite_miscounted (hn : s.nextCount ≠ 3) (f : Frame) :
    s.cmdWrite f = { s.dropCount with
      cmdlog := s.cmdlog ++ [(f, s.nextCount)]
      gpioVal := none, gpioDir := none, frameSync := .unknown, streaming := none } := by
  simp [State.cmdWrite, State.adapter, State.lostSync, hn]

/-- The first scheduled count is the next write's (log 7). -/
theorem nextCount_of_cons {n : Int} {ns : List Int} (hc : s.counts = n :: ns) : s.nextCount = n := by
  simp [State.nextCount, hc]

/-- That count is then used up (log 7). -/
theorem dropCount_of_cons {n : Int} {ns : List Int} (hc : s.counts = n :: ns) :
    s.dropCount = { s with counts := ns } := by
  simp [State.dropCount, hc]

/-! ### TRIGGER at its micro-states (R113 to R117) -/

/-- At T_HIGH TRIGGER writes the first frame (R113). -/
theorem exec_trigger_tHigh (hs : s.seq = .tHigh) : exec .trigger s = .next (tHighStep s) := by
  simp [exec, execTrigger, triggerStep, hs]

/-- At T_SLEEP TRIGGER looks at the clock (R116). -/
theorem exec_trigger_tSleep (hs : s.seq = .tSleep) : exec .trigger s = .next (tSleepStep s) := by
  simp [exec, execTrigger, triggerStep, hs]

/-- At T_LOW TRIGGER writes the second frame (R117). -/
theorem exec_trigger_tLow (hs : s.seq = .tLow) : exec .trigger s = .next (tLowStep s) := by
  simp [exec, execTrigger, triggerStep, hs]

/-- Settles O12: the whole first frame is a GPIO_SET of VALUE_HIGH, and the sleep begins. -/
theorem triggerWritesTheFirstFrame : Obligations.TriggerWritesTheFirstFrame := by
  intro s hs hn
  rw [exec_trigger_tHigh hs, tHighStep, if_pos hn, frameHigh, cmdWrite_gpioFrame_whole hn]
  rfl

/-- Settles O13: the whole second frame is a GPIO_SET of VALUE_LOW, and the operation completes. -/
theorem triggerWritesTheSecondFrame : Obligations.TriggerWritesTheSecondFrame := by
  intro s hs hn
  rw [exec_trigger_tLow hs, tLowStep, if_pos hn, frameLow, cmdWrite_gpioFrame_whole hn]
  rfl

/-- Settles O14: at either frame the miscounted write loses the adapter and takes the error exit. -/
theorem triggerFrameFails : Obligations.TriggerFrameFails := by
  refine fun s hn => ⟨fun hs => ?first, fun hs => ?second⟩
  case first =>
    rw [exec_trigger_tHigh hs, tHighStep, if_neg hn, cmdWrite_miscounted hn]
    rfl
  case second =>
    rw [exec_trigger_tLow hs, tLowStep, if_neg hn, cmdWrite_miscounted hn]
    rfl

/-- Settles O15: with WAKE defined, the sleep is held against its value. -/
theorem triggerSleepIsAHold : Obligations.TriggerSleepIsAHold := by
  intro s w hs hw
  have hwake : s.wakeTime = w := by rw [State.wakeTime, hw, Option.getD_some]
  rw [exec_trigger_tSleep hs, tSleepStep, hwake]

/-! ### The sleep under every step (R116, R124) -/

/-- TRIGGER leaves T_SLEEP only once the sleep is over, and goes to T_LOW (R116). -/
theorem exec_trigger_leaves_tSleep {t : State} (hs : s.seq = .tSleep) (h : exec .trigger s = .next t)
    (hq : t.seq ≠ .tSleep) : t.seq = .tLow ∧ s.wakeTime ≤ s.clk := by
  rw [exec_trigger_tSleep hs, tSleepStep] at h
  split at h <;> cases h
  case isTrue => exact absurd hs hq
  case isFalse hw => exact ⟨rfl, Nat.not_lt.1 hw⟩

/-- The sequencer's turn at the end of the sleep (R116). -/
theorem step_tSleep_over {rest : List Turn} (hs : s.seq = .tSleep) (ha : s.agenda = .block :: rest)
    (hw : s.wakeTime ≤ s.clk) : step s = .next { s with agenda := rest, seq := .tLow } := by
  refine step_block (o := .trigger) (by rw [hs]; rfl) ha ?_
  refine (exec_trigger_tSleep (s := { s with agenda := rest }) hs).trans (congrArg _ ?_)
  exact if_neg (Nat.not_lt.2 hw)

/-! ### The turns of a whole TRIGGER on an aligned adapter (R118, R126) -/

/-- The host's turn that presents TRIGGER to an idle block (R103). -/
theorem step_presentTrigger {rest : List Turn} (hs : s.seq = .idle) (ha : s.agenda = .present 0x01 :: rest) :
    step s = .next (State.issue .trigger { s with agenda := rest }) :=
  calc step s
    _ = presentOp 0x01 { s with agenda := rest } := step_present ha
    _ = exec .trigger { s with agenda := rest } := presentOp_code .trigger hs
    _ = _ := exec_idle .trigger hs

/-- The sequencer's turn at T_HIGH, when the scheduled count is 3 (R115). -/
theorem step_tHigh_whole {ns : List Int} {rest : List Turn} (hs : s.seq = .tHigh) (ha : s.agenda = .block :: rest)
    (hf : s.frameSync = .aligned) (hc : s.counts = 3 :: ns) :
    step s = .next { s with
      agenda := rest, counts := ns, cmdlog := s.cmdlog ++ [(frameHigh s.cfg, 3)]
      gpioVal := some valueHigh, gpioDir := some (dirByte s.cfg), wake := some (s.clk + 10000), seq := .tSleep } := by
  refine step_block (o := .trigger) (by rw [hs]; rfl) ha ?_
  refine (triggerWritesTheFirstFrame { s with agenda := rest } hs (nextCount_of_cons hc)).trans ?_
  rw [dropCount_of_cons (s := { s with agenda := rest }) hc]
  simp only [if_pos hf]
  rfl

/-- The sequencer's turn at T_LOW, when the scheduled count is 3 (R117). -/
theorem step_tLow_whole {ns : List Int} {rest : List Turn} (hs : s.seq = .tLow) (ha : s.agenda = .block :: rest)
    (hf : s.frameSync = .aligned) (hc : s.counts = 3 :: ns) :
    step s = .next { s with
      agenda := rest, counts := ns, cmdlog := s.cmdlog ++ [(frameLow s.cfg, 3)]
      gpioVal := some (valueLow s.cfg), gpioDir := some (dirByte s.cfg), curOp := 0#8, seq := .idle } := by
  refine step_block (o := .trigger) (by rw [hs]; rfl) ha ?_
  refine (triggerWritesTheSecondFrame { s with agenda := rest } hs (nextCount_of_cons hc)).trans ?_
  rw [dropCount_of_cons (s := { s with agenda := rest }) hc]
  simp only [if_pos hf]
  rfl

end Trigger

/-- Settles O17: of the moves of a step only the reset and the micro-step of TRIGGER take SEQ out of T_SLEEP. -/
theorem sleepNeverEndsEarly : Obligations.SleepNeverEndsEarly := by
  refine fun s hs => ⟨fun t h hr hq => ?_, fun rest ha hw => step_tSleep_over hs ha hw⟩
  cases step_inversion h with
  | reset rest hm => exact absurd (by simp [hm]) hr
  | issue o u rest g pc lines hm hu hi => cases hs.symm.trans hi
  | micro o u rest g hm hu ho ht =>
    obtain rfl : o = .trigger := by simpa [hs, Seq.op] using ho.symm
    exact exec_trigger_leaves_tSleep (s := moved s rest g) hs ht hq
  | _ => subst_vars; simp [hs] at hq

/-- Settles O18: the five turns one after the other; the clock's advance outlasts the sleep. -/
theorem triggerWholeOperation : Obligations.TriggerWholeOperation := by
  intro s d ns rest hs hf hc hd ha
  refine Eq.trans (run_succ (step_presentTrigger hs ha)) ?_
  refine Eq.trans (run_succ (step_tHigh_whole rfl rfl hf hc)) ?_
  refine Eq.trans (run_succ (step_clock rfl)) ?_
  refine Eq.trans (run_succ (step_tSleep_over rfl rfl (Nat.add_le_add_left hd _))) ?_
  refine Eq.trans (run_succ (step_tLow_whole rfl rfl hf rfl)) ?_
  simp [run_zero, hs, HostOp.number, frameHigh, frameLow, gpioFrame, valueHigh, valueLow, dirByte, Config.opGpioSet]

end Sys2Proof.Machine

/-! PROOFS. The statements of CAPINIT (spec/41_capture_init.md): its frame written out in `N`, the law of a whole CAPTURE,
and the two exits of its one write. -/

namespace Sys2Proof.Machine

open Sys2Proof

section Capinit

variable {s : State}

/-- FRAME_CAP written out in `N` (R91). -/
theorem frameCap_eq (c : Cfg) :
    frameCap c = ⟨0x2C, BitVec.ofNat 8 ((c.capacity - 1) % 256), BitVec.ofNat 8 ((c.capacity - 1) / 256)⟩ := by
  simp [frameCap, captureFrame, lengthLow_eq, lengthHigh_eq, Cfg.capacity, Config.opCapture]

/-- A whole FRAME_CAP asks an aligned adapter for `N` bytes, and leaves nothing known of one out of step (R209, R210):
it is CAPTURE with `L = N - 1`. -/
theorem cmdWrite_frameCap_whole (hn : s.nextCount = 3) :
    s.cmdWrite (frameCap s.cfg) = { s.dropCount with
      cmdlog := s.cmdlog ++ [(frameCap s.cfg, 3)]
      gpioVal := if s.frameSync = .aligned then s.gpioVal else none
      gpioDir := if s.frameSync = .aligned then s.gpioDir else none
      streaming := if s.frameSync = .aligned then some s.cfg.capacity else none } :=
  Host.Outcome.next.inj (captureRequestsItsLength s s.cfg.lenM1 hn)

/-- At C_WRITE CAPINIT writes its frame (R133). -/
theorem exec_capinit_cWrite (hs : s.seq = .cWrite) : exec .capinit s = .next (cWriteStep s) := by
  simp [exec, execCapinit, capinitStep, hs]

end Capinit

/-- Settles O20: the whole frame is a CAPTURE of `N` bytes, and the operation completes. -/
theorem capinitStartsTheCapture : Obligations.CapinitStartsTheCapture := by
  intro s hs hn
  rw [exec_capinit_cWrite hs, cWriteStep, if_pos hn, cmdWrite_frameCap_whole hn, frameCap_eq]
  rfl

/-- Settles O21: the miscounted write loses the adapter and takes the error exit. -/
theorem capinitFrameFails : Obligations.CapinitFrameFails := by
  intro s hs hn
  rw [exec_capinit_cWrite hs, cWriteStep, if_neg hn, cmdWrite_miscounted hn, frameCap_eq]
  rfl

end Sys2Proof.Machine

/-! PROOFS. The statements of ACCUMULATE (spec/42_accumulator.md): its three micro-steps, the full test before the deadline
test, and, for every operation, that it ends or comes to one of the two faults of a micro-step. -/

namespace Sys2Proof.Machine

open Sys2Proof

section Accumulate

variable {s : State}

/-! ### ACCUMULATE at its micro-states (R143 to R146) -/

/-- At A_INIT ACCUMULATE starts the time on an empty buffer (R143). -/
theorem exec_accumulate_aInit (hs : s.seq = .aInit) : exec .accumulate s = .next (aInitStep s) := by
  simp [exec, execAccumulate, accumulateStep, hs]

/-- At A_READ ACCUMULATE reads the source (R144). -/
theorem exec_accumulate_aRead (hs : s.seq = .aRead) : exec .accumulate s = .next (aReadStep s) := by
  simp [exec, execAccumulate, accumulateStep, hs]

/-- At A_CHECK ACCUMULATE makes its two tests (R146). -/
theorem exec_accumulate_aCheck (hs : s.seq = .aCheck) : exec .accumulate s = .next (aCheckStep s) := by
  simp [exec, execAccumulate, accumulateStep, hs]

/-- A state whose sequencer is not in IDLE is not final (R215). -/
theorem final_of_running (hs : s.seq ≠ .idle) : s.final = false := by
  simp [State.final, hs]

end Accumulate

/-- Settles O22: the zero-filled buffer reads 0x00 everywhere. -/
theorem accumulateStartsEmpty : Obligations.AccumulateStartsEmpty :=
  fun _ hs => ⟨_, exec_accumulate_aInit hs, rfl, Memory.read_zeroed⟩

/-- Settles O23: the answer is one run of bytes at FILLED. -/
theorem accumulateAppendsTheAnswer : Obligations.AccumulateAppendsTheAnswer := by
  intro s hs hm hl
  have ht := exec_accumulate_aRead hs
  rw [aReadStep, if_neg (Nat.not_lt.2 hl)] at ht
  refine ⟨_, ht, rfl, Memory.writeBytes_wf hm _ _, fun k hk => Memory.read_writeBytes_inside hm _ _ hk, fun i hi => ?_⟩
  rcases hi with hi | hi
  · exact Memory.read_writeBytes_below _ _ hi
  · exact Memory.read_writeBytes_above _ _ hi

/-- Settles O24: the mark leaves SEQ in A_READ, and a running state is not final. -/
theorem sourceOverrunAppendsNothing : Obligations.SourceOverrunAppendsNothing := by
  intro s hs hl
  have ht := exec_accumulate_aRead hs
  rw [aReadStep, if_pos hl] at ht
  exact ⟨_, ht, by simp [State.mark, FaultSet.add], final_of_running (by simp [hs])⟩

/-- Settles O25: with T0 defined, the elapsed time is counted from its value. -/
theorem accumulateChecksFullThenDeadline : Obligations.AccumulateChecksFullThenDeadline := by
  intro s t0 hs h0
  have htime : s.t0Time = t0 := by rw [State.t0Time, h0, Option.getD_some]
  rw [exec_accumulate_aCheck hs, aCheckStep, htime]
  rfl

/-- Settles O26: the full test comes first, and the invariant holds after the micro-step. -/
theorem fullBufferWinsOverTheDeadline : Obligations.FullBufferWinsOverTheDeadline := by
  intro s t hi hs ht
  have ho : Seq.op s.seq = some .accumulate := by rw [hs]; rfl
  refine ⟨fun hf => ?full, fun he => ((hi.micro (o := .accumulate) ho ht).timeoutOp he).2⟩
  case full =>
    obtain ⟨-, herr, -⟩ := hi.runningFlags _ ho
    rw [exec_accumulate_aCheck hs, aCheckStep, if_pos hf] at ht
    cases ht
    exact ⟨rfl, herr⟩

/-! ### Every operation ends, or comes to a fault of a micro-step (R154, R207)

Each operation goes through stages, and a stage that may last has a time from which on the sequencer's next check of the
clock ends it. Before that time every step brings it nearer or uses up a scheduled or granted move, by `step_advances`;
from then on only so many moves can come before the check. -/

/-- How many stages are left of the operation; the reads and checks of ACCUMULATE are one stage (R24). -/
def Seq.stage : Seq → Nat
  | .idle => 0
  | .tLow | .cWrite | .aRead | .aCheck | .lScan => 1
  | .tSleep | .aInit => 2
  | .tHigh => 3

/-- The time from which on the stage ends with the sequencer's next check of the clock (R116, R146). -/
def State.due (s : State) : Nat :=
  match s.seq with
  | .tSleep => s.wakeTime
  | .aRead | .aCheck => s.t0Time + Config.deadlineNs + 1
  | .idle | .tHigh | .tLow | .cWrite | .aInit | .lScan => 0

/-- A bound on the moves that are left of a stage that is due: a move scheduled counts two, and so does the read before
the check; the free advance of the clock that the sequencer may have to wait for counts one (log 26). -/
def State.dueMoves (s : State) : Nat :=
  2 * (s.agenda.length + if s.seq = .aRead then 1 else 0) + if s.untilTick = 0 then 1 else 0

/-- A bound on the moves to come: until the clock's next free advance, or of a stage that is due. -/
def State.pending (s : State) : Nat := if s.clk < s.due then s.agenda.length + s.untilTick else s.dueMoves

/-- The sequencer's micro-step would raise F_SOURCE_OVERRUN or F_PARTIAL_DECODE (R150, R168). -/
def State.MicroFaults (s : State) : Prop :=
  (s.seq = .aRead ∧ s.cfg.capacity - s.filled < s.nextRead.length) ∨ (s.seq = .lScan ∧ s.filled ≠ s.cfg.capacity)

/-- The operation has ended, or the next step is the sequencer's and raises one of the two faults. -/
def State.EndsOrFaults (s : State) : Prop := s.seq = .idle ∨ (s.sequencerMoves ∧ s.MicroFaults)

/-- A move from `s` to `t` ends a stage, or leaves the time it is due; and where that has come, the moves left fall. -/
def Progress (s t : State) : Prop :=
  t.seq.stage < s.seq.stage ∨
    (t.seq.stage = s.seq.stage ∧ t.due = s.due ∧ (s.clk < s.due ∨ t.dueMoves < s.dueMoves))

section Progress

variable {s t : State}

/-- A running operation has a stage left. -/
theorem stage_pos {q : Seq} (hq : q ≠ .idle) : 0 < q.stage := by
  cases q with
  | idle => exact absurd rfl hq
  | _ => decide

/-- The time a stage is due depends on SEQ, T0 and WAKE alone. -/
theorem due_congr (hq : t.seq = s.seq) (h0 : t.t0 = s.t0) (hw : t.wake = s.wake) : t.due = s.due := by
  simp only [State.due, State.t0Time, State.wakeTime, hq, h0, hw]

/-- A micro-step that raises neither fault ends a stage, or the stage is not due yet, or A_CHECK follows A_READ. -/
theorem exec_stage {o : HostOp} (ho : Seq.op s.seq = some o) (h : exec o.instr s = .next t) (hf : ¬s.MicroFaults) :
    t.seq.stage < s.seq.stage ∨
      (t.seq.stage = s.seq.stage ∧ t.due = s.due ∧ (s.clk < s.due ∨ (s.seq = .aRead ∧ t.seq = .aCheck))) := by
  cases o with
  | trigger =>
    rcases execTrigger_cases h ho with
      ⟨hs, -, rfl⟩ | ⟨hs, -, rfl⟩ | ⟨hs, hw, rfl⟩ | ⟨hs, -, rfl⟩ | ⟨hs, -, rfl⟩ | ⟨hs, -, rfl⟩
    · exact .inl (by simp [hs, Seq.stage])
    · exact .inl (by simp [hs, Seq.stage])
    · exact .inr ⟨rfl, rfl, .inl (by simpa [State.due, hs] using hw)⟩
    all_goals exact .inl (by simp [hs, Seq.stage])
  | capinit => obtain ⟨hs, ⟨-, rfl⟩ | ⟨-, rfl⟩⟩ := execCapinit_cases h ho <;> exact .inl (by simp [hs, Seq.stage])
  | accumulate =>
    rcases execAccumulate_cases h ho with
      ⟨hs, rfl⟩ | ⟨hs, hl, -⟩ | ⟨hs, -, rfl⟩ | ⟨hs, -, rfl⟩ | ⟨hs, -, -, rfl⟩ | ⟨hs, -, hd, rfl⟩
    · exact .inl (by simp [hs, Seq.stage])
    · exact absurd (.inl ⟨hs, hl⟩) hf
    · exact .inr ⟨by simp [hs, Seq.stage], by simp [State.due, State.t0Time, hs], .inr ⟨hs, rfl⟩⟩
    · exact .inl (by simp [hs, Seq.stage])
    · exact .inl (by simp [hs, Seq.stage])
    · have hearly : s.clk < s.due := by simp only [State.due, hs]; omega
      exact .inr ⟨by simp [hs, Seq.stage], by simp [State.due, State.t0Time, hs], .inl hearly⟩
  | locate =>
    obtain ⟨hs, ⟨hp, -⟩ | ⟨-, rfl⟩ | ⟨-, i, -, -, -, rfl⟩ | ⟨-, i, j, -, -, -, -, -, rfl⟩⟩ := execLocate_cases h ho
    · exact absurd (.inr ⟨hs, hp⟩) hf
    all_goals exact .inl (by simp [hs, Seq.stage, noStart, noEnd, found])

/-- The move from A_READ to A_CHECK, scheduled or free, leaves fewer moves. -/
theorem dueMoves_aRead {u : Option Turn} (hm : Moved s u t.agenda t.untilTick) (hs : s.seq = .aRead)
    (ht : t.seq = .aCheck) : t.dueMoves < s.dueMoves := by
  simp only [State.dueMoves, hs, ht, reduceCtorEq, if_true, if_false]
  cases u with
  | none =>
    obtain ⟨ha, hr, -⟩ := hm
    rw [ha, hr]
    split <;> omega
  | some u =>
    obtain ⟨ha, hg⟩ := hm
    simp [ha, hg]

/-- A micro-step that raises neither fault makes progress. -/
theorem micro_progress {o : HostOp} {u : Option Turn} {rest : List Turn} {g : Nat} (hm : Moved s u rest g)
    (ho : Seq.op s.seq = some o) (h : exec o.instr (moved s rest g) = .next t) (hf : ¬s.MicroFaults) : Progress s t := by
  obtain ⟨-, rfl, rfl⟩ := exec_schedule (s := moved s rest g) ho h
  rcases exec_stage (s := moved s t.agenda t.untilTick) ho h hf with hq | ⟨hq, hd, hlt | ⟨hs, ht⟩⟩
  · exact .inl hq
  · exact .inr ⟨hq, hd, .inl hlt⟩
  · exact .inr ⟨hq, hd, .inr (dueMoves_aRead hm hs ht)⟩

/-- A scheduled turn that leaves SEQ, T0 and WAKE makes progress. -/
theorem turn_progress {u : Turn} (hm : s.agenda = u :: t.agenda) (hg : t.untilTick = s.untilTick) (hq : t.seq = s.seq)
    (h0 : t.t0 = s.t0) (hw : t.wake = s.wake) : Progress s t :=
  .inr ⟨by rw [hq], due_congr hq h0 hw, .inr (by simp [State.dueMoves, hm, hg, hq])⟩

/-- In a stage that is due the sequencer is not held (R116). -/
theorem blockEnabled_of_due (hs : s.seq ≠ .idle) (hd : s.due ≤ s.clk) : s.blockEnabled = true := by
  have hfree : ¬(s.seq = .tSleep ∧ s.clk < s.wakeTime) := fun ⟨hq, hw⟩ =>
    absurd (by simpa [State.due, hq] using hd) (Nat.not_le.2 hw)
  simp [State.blockEnabled, State.busy, hs, hfree]

/-- In a stage that is due the clock's free advance comes only where no move is granted, and grants some. -/
theorem tick_progress {d g : Nat} (hs : s.seq ≠ .idle)
    (he : s.untilTick = 0 ∨ (s.blockEnabled = false ∧ s.hostEnabled = false)) :
    Progress s { s with clk := s.clk + (d + 1), untilTick := g + 1, draws := s.draws + 1 } := by
  refine .inr ⟨rfl, rfl, (Nat.lt_or_ge s.clk s.due).imp_right fun hd => ?_⟩
  have hg : s.untilTick = 0 := he.resolve_right fun h =>
    Bool.false_ne_true (h.1.symm.trans (blockEnabled_of_due hs hd))
  simp [State.dueMoves, hg]

/-- Every step of a running operation makes progress, unless it is a micro-step that raises a fault. -/
theorem step_progress (hs : ¬s.EndsOrFaults) (h : step s = .next t) : Progress s t := by
  obtain ⟨hi, hf⟩ := not_or.1 hs
  cases step_inversion h with
  | tick d g hm he ht => exact ht ▸ tick_progress hi he
  | reset rest hm ht => exact .inl (ht ▸ stage_pos hi)
  | host u rest g saw pc lines c hm hu hb ht =>
    cases u with
    | none => exact absurd (hb rfl) hi
    | some u => exact ht ▸ turn_progress hm.1 hm.2 rfl rfl rfl
  | issue o u rest g pc lines hm hu hi' => exact absurd hi' hi
  | micro o u rest g hm hu ho ht => exact micro_progress hm ho ht fun hm' => hf ⟨micro_sequencerMoves hm hu, hm'⟩
  | frame f rest hm hr => simp [State.hostRuns, State.busy, hi] at hr
  | clock _ _ hm ht | mark _ _ _ _ _ hm _ ht | refuse _ _ hm _ ht => exact ht ▸ turn_progress hm rfl rfl rfl rfl

/-- The order in which every such step falls: the stage, the time until it is due, the moves pending. -/
theorem step_decreases (hs : ¬s.EndsOrFaults) (h : step s = .next t) :
    Prod.Lex (· < ·) (Prod.Lex (· < ·) (· < ·)) (t.seq.stage, t.due - t.clk, t.pending)
      (s.seq.stage, s.due - s.clk, s.pending) := by
  obtain ⟨hc, hadv⟩ := step_advances h
  rcases step_progress hs h with hq | ⟨hq, hd, hp⟩
  · exact .left _ _ hq
  · rw [hq, hd]
    refine .right _ ?_
    by_cases hlt : s.clk < s.due
    · rcases hc.lt_or_eq with hc | hc
      · exact .left _ _ (by omega)
      · have hmoves : t.agenda.length + t.untilTick < s.agenda.length + s.untilTick := hadv.resolve_left hc.not_lt
        rw [← hc]
        exact .right _ (by simpa only [State.pending, hd, ← hc, if_pos hlt] using hmoves)
    · have hle : s.due ≤ s.clk := Nat.not_lt.1 hlt
      rw [Nat.sub_eq_zero_of_le hle, Nat.sub_eq_zero_of_le (hle.trans hc)]
      have hlt' : ¬t.clk < s.due := Nat.not_lt.2 (hle.trans hc)
      exact .right _ (by simpa only [State.pending, hd, if_neg hlt, if_neg hlt'] using hp.resolve_left hlt)

/-- Step by step every state comes to the end of its operation, or to a fault. -/
theorem run_endsOrFaults (s : State) : ∃ n u, Host.Core.run Sys2Proof.core n s = .next u ∧ u.EndsOrFaults := by
  by_cases hs : s.EndsOrFaults
  · exact ⟨0, s, run_zero s, hs⟩
  · obtain ⟨t, ht⟩ := noStateStopsTheMachine s
    have hdec := step_decreases hs ht
    obtain ⟨n, u, hu, he⟩ := run_endsOrFaults t
    exact ⟨n + 1, u, (run_succ ht).trans hu, he⟩
termination_by (s.seq.stage, s.due - s.clk, s.pending)
decreasing_by exact hdec

end Progress

/-- Settles O51: every step falls in a well-founded order, so a run cannot avoid the end. -/
theorem everyOperationEndsOrFaults : Obligations.EveryOperationEndsOrFaults := run_endsOrFaults

end Sys2Proof.Machine

/-! PROOFS. The statements of LOCATE (spec/43_edge_locator.md): the highest set bit of a byte, what the scans find in a
buffer whose first and last non-zero bytes are known, and the report of it. -/

namespace Sys2Proof.Machine

open Sys2Proof

section Locate

/-! ### The highest set bit of a byte (R170, R171) -/

/-- A byte with a set bit is not 0x00. -/
theorem ne_zero_of_pow_le {v : Byte} {a : Nat} (hl : 2 ^ a ≤ v.toNat) : v ≠ 0#8 := by
  rintro rfl
  exact absurd hl (Nat.not_le.2 (Nat.two_pow_pos a))

/-- Only one `a` satisfies the bounds of the highest set bit (R170). -/
theorem hsb_eq {v : Byte} {a : Nat} (hl : 2 ^ a ≤ v.toNat) (hu : v.toNat < 2 ^ (a + 1)) : hsb v = a := by
  obtain ⟨-, hl', hu'⟩ := hsb_spec v (ne_zero_of_pow_le hl)
  exact (Nat.log_eq_of_pow_le_of_lt_pow hl' hu').symm.trans (Nat.log_eq_of_pow_le_of_lt_pow hl hu)

variable {m : Memory} {n i j a : Nat}

/-- The bit index of a byte, by the bounds of its highest set bit (R171). -/
theorem bitIndex_eq (hl : 2 ^ a ≤ (Memory.read m i).toNat) (hu : (Memory.read m i).toNat < 2 ^ (a + 1)) :
    bitIndex m i = 8 * i + a :=
  congrArg (8 * i + ·) (hsb_eq hl hu)

/-- A later non-zero byte has the greater bit index (R174). -/
theorem bitIndex_lt (hi : Memory.read m i ≠ 0#8) (hij : i < j) : bitIndex m i < bitIndex m j := by
  have hb := (hsb_spec _ hi).1
  simp only [bitIndex]
  omega

/-- The start index is 0 exactly for `BUF[0] = 0x01` (R172). -/
theorem startIndex_zero_iff :
    (∃ i a, (∀ k < i, Memory.read m k = 0#8) ∧ 2 ^ a ≤ (Memory.read m i).toNat ∧
      (Memory.read m i).toNat < 2 ^ (a + 1) ∧ 8 * i + a = 0) ↔ Memory.read m 0 = 0x01 := by
  constructor
  · rintro ⟨i, a, -, hl, hu, h0⟩
    obtain ⟨rfl, rfl⟩ : i = 0 ∧ a = 0 := by omega
    exact BitVec.eq_of_toNat_eq (Nat.le_antisymm (Nat.le_of_lt_succ hu) hl)
  · intro h
    exact ⟨0, 0, by simp [h]⟩

/-! ### What the scans find, from the first and the last non-zero byte (R169, R172, R173) -/

/-- In zero bytes there is no start edge (R169). -/
theorem edges_of_zero (hz : ∀ k < n, Memory.read m k = 0#8) : edges m n = none := by
  rw [edges, scanUp_none.2 fun k _ hk => hz k (by omega)]

/-- The first non-zero byte holds the start edge, unless it is the zero boundary (R171, R172). -/
theorem edges_of_first (hi : i < n) (hb : Memory.read m i ≠ 0#8) (hz : ∀ k < i, Memory.read m k = 0#8) :
    edges m n = if bitIndex m i = 0 then none else some (bitIndex m i, (scanDown m i n).map (bitIndex m)) := by
  rw [edges, scanUp_some.2 ⟨⟨i.zero_le, by omega⟩, hb, fun k _ hk => hz k hk⟩]

/-- With only zero bytes above the start byte there is no end edge (R173). -/
theorem edges_of_lone (hi : i < n) (hb : Memory.read m i ≠ 0#8) (hz : ∀ k < i, Memory.read m k = 0#8)
    (h0 : bitIndex m i ≠ 0) (ha : ∀ k, i < k → k < n → Memory.read m k = 0#8) :
    edges m n = some (bitIndex m i, none) := by
  rw [edges_of_first hi hb hz, if_neg h0, scanDown_none.2 ha, Option.map_none]

/-- The last non-zero byte above the start byte holds the end edge (R173). -/
theorem edges_of_first_last (hij : i < j) (hj : j < n) (hb : Memory.read m i ≠ 0#8)
    (hz : ∀ k < i, Memory.read m k = 0#8) (h0 : bitIndex m i ≠ 0) (hc : Memory.read m j ≠ 0#8)
    (ha : ∀ k, j < k → k < n → Memory.read m k = 0#8) :
    edges m n = some (bitIndex m i, some (bitIndex m j)) := by
  rw [edges_of_first (hij.trans hj) hb hz, if_neg h0, scanDown_some.2 ⟨⟨hij, hj⟩, hc, ha⟩, Option.map_some]

end Locate

/-- Settles O28: the start edge is in byte `i`, the end edge in byte `j`. -/
theorem locateFindsTheWindow : Obligations.LocateFindsTheWindow := by
  intro s i j a b hs hf hij hj hz hz' hla hua hlb hub h0
  have hi := bitIndex_eq hla hua
  have hw := edges_of_first_last hij hj (ne_zero_of_pow_le hla) hz (hi ▸ h0) (ne_zero_of_pow_le hlb) hz'
  rw [exec_locate_full hs hf, hw, hi, bitIndex_eq hlb hub]
  rfl

/-- Settles O30: byte 0 is the start byte, and its bit index is 0. -/
theorem locateZeroBoundaryIsNoPulseStart : Obligations.LocateZeroBoundaryIsNoPulseStart := by
  intro s hs hf
  refine ⟨startIndex_zero_iff, fun h => ?_⟩
  have h0 : bitIndex s.buf 0 = 0 := bitIndex_eq (a := 0) (by simp [h]) (by simp [h])
  have hn : 0 < s.cfg.capacity := Nat.succ_pos _
  rw [exec_locate_full hs hf, edges_of_first hn (by simp [h]) (by simp), if_pos h0]
  rfl

/-- Settles O31: byte `i` holds the start edge, and above it are zero bytes. -/
theorem locateLoneByteIsNoPulseEnd : Obligations.LocateLoneByteIsNoPulseEnd := by
  intro s i a hs hf hin hz hl hu h0
  have hi := bitIndex_eq hl hu
  have hbelow : ∀ k < i, Memory.read s.buf k = 0#8 := fun k hk => hz k (hk.trans hin) hk.ne
  have habove : ∀ k, i < k → k < s.cfg.capacity → Memory.read s.buf k = 0#8 := fun k hk hkn => hz k hkn hk.ne'
  rw [exec_locate_full hs hf, edges_of_lone hin (ne_zero_of_pow_le hl) hbelow (hi ▸ h0) habove, hi]
  rfl

/-- Settles O33: the last non-zero byte is the start byte itself, or lies above it and has the greater bit index. -/
theorem locateEqualsTheWholeBufferReading : Obligations.LocateEqualsTheWholeBufferReading := by
  intro s i e hs hf hi hbi hzi he hbe hze h0
  have hie : i ≤ e := Nat.not_lt.1 fun h => hbe (hzi e h)
  rw [exec_locate_full hs hf]
  rcases hie.eq_or_lt with rfl | hlt
  · rw [edges_of_lone hi hbi hzi h0 hze, if_pos le_rfl]
    rfl
  · rw [edges_of_first_last hlt he hbi hzi h0 hbe hze, if_neg (Nat.not_le.2 (bitIndex_lt hbi hlt))]
    rfl

/-- Settles O29: the start scan finds no byte. -/
theorem locateEmptyBufferIsNoPulseStart : Obligations.LocateEmptyBufferIsNoPulseStart := by
  intro s hs hf hz
  rw [exec_locate_full hs hf, edges_of_zero hz]
  rfl

/-- Settles O32: the mark of the fault is the whole effect. -/
theorem locatePartialBufferOnlySetsItsFault : Obligations.LocatePartialBufferOnlySetsItsFault :=
  fun _ hs hf => exec_locate_partial hs hf

end Sys2Proof.Machine

/-! PROOFS. The statements of time and of the frames (spec/60_exceptions.md): the clock grows without bound, and what a
GPIO_SET or a CAPTURE does as an instruction, by the count its write returned. -/

namespace Sys2Proof.Machine

open Sys2Proof

/-! ### The clock grows without bound (R207) -/

/-- From every state some later state has a later clock: until the clock advances, each step uses up a scheduled or a
granted move (log 26). -/
theorem run_advances (s : State) : ∃ n u, Host.Core.run Sys2Proof.core n s = .next u ∧ s.clk < u.clk := by
  obtain ⟨t, ht⟩ := noStateStopsTheMachine s
  obtain ⟨hc, hlt | hmoves⟩ := step_advances ht
  · exact ⟨1, t, (run_succ ht).trans (run_zero t), hlt⟩
  · obtain ⟨n, u, hu, hlt⟩ := run_advances t
    exact ⟨n + 1, u, (run_succ ht).trans hu, hc.trans_lt hlt⟩
termination_by s.agenda.length + s.untilTick
decreasing_by exact hmoves

/-- Settles O50, by induction on the time: past `time`, one more advance comes past `time + 1`. -/
theorem clockGrowsWithoutBound : Obligations.ClockGrowsWithoutBound := by
  intro s time
  induction time with
  | zero =>
    obtain ⟨n, u, hu, hlt⟩ := run_advances s
    exact ⟨n, u, hu, Nat.zero_lt_of_lt hlt⟩
  | succ time ih =>
    obtain ⟨n, u, hu, hpast⟩ := ih
    obtain ⟨m, v, hv, hlt⟩ := run_advances u
    exact ⟨n + m, v, (run_add hu).trans hv, Nat.lt_of_le_of_lt hpast hlt⟩

/-! ### The frames as instructions (R209 to R211) -/

/-- GPIO_SET is one command write of its frame (R87; log 2). -/
theorem exec_gpioSet (v d : Byte) (s : State) : exec (.gpioSet v d) s = .next (s.cmdWrite (gpioFrame v d)) := rfl

/-- CAPTURE is one command write of its frame (R88; log 2). -/
theorem exec_capture (l : BitVec 16) (s : State) : exec (.capture l) s = .next (s.cmdWrite (captureFrame l)) := rfl

/-- Settles O35: GPIO_SET by the law of its whole write, and CAPTURE out of step by its own statement. -/
theorem gpioSetSetsTheBank : Obligations.GpioSetSetsTheBank := by
  refine fun s hn => ⟨fun v d => ?gpioSet, fun hu l => ?capture⟩
  case gpioSet =>
    rw [exec_gpioSet, cmdWrite_gpioFrame_whole hn]
    rfl
  case capture =>
    have hlost : s.frameSync ≠ .aligned := by simp [hu]
    exact ⟨_, captureRequestsItsLength s l hn, if_neg hlost, if_neg hlost, if_neg hlost⟩

/-- Settles O37: each frame is one command write, and a miscounted write of any frame loses the adapter. -/
theorem miscountedWriteLosesTheAdapter : Obligations.MiscountedWriteLosesTheAdapter := by
  refine fun s hn => ⟨fun v d => ?gpioSet, fun l => ?capture⟩
  case gpioSet =>
    rw [exec_gpioSet, cmdWrite_miscounted hn]
    rfl
  case capture =>
    rw [exec_capture, cmdWrite_miscounted hn]
    rfl

end Sys2Proof.Machine

/-! PROOFS. The statements of the reset and of the pulse's duration (spec/70_reset_and_hazards.md): what every step
keeps between a first frame and a second one, the values of the state after reset, and the reset turn. -/

namespace Sys2Proof.Machine

open Sys2Proof

/-! ### The gap between the two frames of a pulse (R237, R246) -/

/-- A property that every step keeps holds at the end of a run that began with it (R19). -/
theorem run_keeps {P : State → Prop} (hstep : ∀ {s t : State}, P s → step s = .next t → P t) {n : Nat} {s t : State}
    (hs : P s) (h : Host.Core.run Sys2Proof.core n s = .next t) : P t := by
  induction n generalizing s with
  | zero =>
    cases h
    exact hs
  | succ n ih =>
    obtain ⟨u, hu⟩ := noStateStopsTheMachine s
    exact ih (hstep hs hu) ((run_succ hu).symm.trans h)

/-- What holds since a first frame's write returned at clock `c`, resets and later TRIGGERs included: no sleep ends
before PULSE_NS have passed since `c`. -/
structure PulseGap (c : Nat) (s : State) : Prop where
  /-- The clock has not gone back (R206). -/
  clkPast : c ≤ s.clk
  /-- A sleep in progress, this TRIGGER's or a later one's, lasts until the gap is over (R115). -/
  sleepLasts : s.seq = .tSleep → c + 10000 ≤ s.wakeTime
  /-- Before the second frame the gap is over (R116). -/
  gapOver : s.seq = .tLow → c + 10000 ≤ s.clk

namespace PulseGap

variable {c : Nat} {s t : State}

/-- A step that leaves SEQ and WAKE keeps it, for the clock only grows. -/
theorem keep (h : PulseGap c s) (hc : s.clk ≤ t.clk) (hq : t.seq = s.seq) (hw : t.wake = s.wake) : PulseGap c t where
  clkPast := h.clkPast.trans hc
  sleepLasts hs := by
    rw [State.wakeTime, hw]
    exact h.sleepLasts (hq.symm.trans hs)
  gapOver hs := (h.gapOver (hq.symm.trans hs)).trans hc

/-- Outside T_SLEEP and T_LOW only the clock counts. -/
theorem awake (hc : c ≤ t.clk) (hs : t.seq ≠ .tSleep) (hl : t.seq ≠ .tLow) : PulseGap c t :=
  ⟨hc, (absurd · hs), (absurd · hl)⟩

/-- A first frame's whole write begins a sleep that outlasts the gap of every earlier first frame (R115). -/
theorem sleepStarts (hc : c ≤ t.clk) (hq : t.seq = .tSleep) (hw : t.wake = some (t.clk + 10000)) : PulseGap c t where
  clkPast := hc
  sleepLasts _ := by
    rw [State.wakeTime, hw]
    exact Nat.add_le_add_right hc _
  gapOver hl := by cases hq.symm.trans hl

/-- A micro-step keeps it: only a whole first frame begins a sleep, and the sleep ends at or after WAKE (R115, R116). -/
theorem after_exec {o : HostOp} (h : PulseGap c s) (ho : Seq.op s.seq = some o) (ht : exec o.instr s = .next t) :
    PulseGap c t := by
  have hc : c ≤ t.clk := (exec_schedule ho ht).1 ▸ h.clkPast
  cases exec_inversion ho ht with
  | sleepStarts hs ht => exact sleepStarts hc (by simp [ht]) (by simp [ht])
  | held hs ht => exact ht ▸ h
  | sleepEnds hs hw ht =>
    subst ht
    exact ⟨hc, nofun, fun _ => (h.sleepLasts hs).trans hw⟩
  | overrun | partialBuffer =>
    subst_vars
    exact h.keep (by simp) (by simp) (by simp)
  | frameDone | frameFailed | emptied | appended | full | timeout | readsAgain | startMissing | endMissing | window =>
    subst_vars
    exact awake hc (by simp [noStart, noEnd, found]) (by simp [noStart, noEnd, found])

/-- Every step keeps it: an issue and a reset leave T_SLEEP and T_LOW, and no other agent writes SEQ or WAKE. -/
theorem after_step (h : PulseGap c s) (ht : step s = .next t) : PulseGap c t := by
  have hc : s.clk ≤ t.clk := (step_advances ht).1
  cases step_inversion ht with
  | micro o u rest g hm hu ho he =>
    have hmoved : PulseGap c (moved s rest g) := h.keep (le_refl _) rfl rfl
    exact hmoved.after_exec ho he
  | reset rest hm ht =>
    subst ht
    exact awake (h.clkPast.trans hc) (by simp) (by simp)
  | issue o u rest g pc lines hm hu hi ht =>
    subst ht
    exact awake (h.clkPast.trans hc) (by cases o <;> simp [HostOp.first]) (by cases o <;> simp [HostOp.first])
  | clock | tick | host | mark | refuse | frame =>
    subst_vars
    exact h.keep hc (by simp) (by simp)

end PulseGap

/-- Settles O19: the first frame's return begins the gap, every step keeps it, and in T_LOW it is over. -/
theorem pulseGapIsAtLeastPulseNs : Obligations.PulseGapIsAtLeastPulseNs := by
  intro s t u n hs hn ht hrun hu
  have hstart : PulseGap s.clk t := by
    rw [exec_trigger_tHigh hs, tHighStep, if_pos hn] at ht
    cases ht
    exact .sleepStarts (by simp) rfl (by simp [Config.pulseNs])
  have hend : PulseGap s.clk u := run_keeps PulseGap.after_step hstart hrun
  exact hend.gapOver hu

/-! ### The state after reset (R230) -/

/-- Settles O43: the fields stand at their values, STATUS is made of zeros, and CONFIG reads back by its own law. -/
theorem resetLeavesTheStatedValues : Obligations.ResetLeavesTheStatedValues := by
  refine ⟨fun c t => ⟨⟨rfl, rfl, ?status, rfl⟩, ⟨rfl, rfl, rfl, rfl⟩, fun _ => rfl, ⟨rfl, rfl⟩, ?config,
    ⟨rfl, rfl, rfl, rfl, rfl, rfl, rfl⟩⟩, ⟨Config.reference, Config.initialClk, rfl, rfl⟩⟩
  case status => simp [State.statusWord, State.busy, State.initial, Err.code]
  case config => exact ⟨_, register_config (State.initial c t), configWord_toNat c⟩

/-- The state after reset meets the invariant, for every configuration and clock: nothing is filled, and SEQ = IDLE,
ERR = 0, LAST_OP = 0 and undefined registers leave the premises of the other conditions false. -/
theorem initial_inv (c : Cfg) (t : Nat) : (State.initial c t).Inv where
  bufCanonical := Memory.zeroed_wf
  bufBelowFilled := nofun
  filledInRange := Nat.zero_le _
  curOpMatches := rfl
  runningFlags := nofun
  transportOp := nofun
  timeoutOp := nofun
  noPulseStartOp := nofun
  noPulseEndOp := nofun
  startInRange := nofun
  endInRange := nofun
  accumulatedFull := nofun
  locatedValid := nofun
  wakeDefined := nofun
  wakePassed := nofun
  t0Defined := nofun
  t0Past := nofun
  readRoom := nofun
  lostUnknown := nofun
  gpioTogether := rfl
  streamingInRange := nofun

/-- Settles O45, at the reference configuration. -/
theorem resetMeetsTheBlockConditions : Obligations.ResetMeetsTheBlockConditions :=
  initial_inv Config.reference Config.initialClk

/-! ### The reset turn (R230, R233) -/

/-- A choice by BUSY is the choice by SEQ = IDLE, turned round (R28). -/
theorem ite_busy {α : Type} (s : State) (a b : α) :
    (if s.busy then a else b) = if s.seq = .idle then b else a := by
  by_cases hs : s.seq = .idle <;> simp [State.busy, hs]

/-- Settles O44: the turn is the block's reset, whose choices by BUSY are those by SEQ. -/
theorem resetEndsTheOperation : Obligations.ResetEndsTheOperation := by
  intro s rest ha
  rw [step_turn ha, takeTurn, State.blockReset]
  simp only [ite_busy]
  rfl

end Sys2Proof.Machine
